-- ==== Sys2Proof/Word.lean ====
section
/-! DEFINITION. The words of UART9 and the plain data that name its codes: the widths of `00_scope.md` R8 and
`10_state.md` R46, the driver's parity modes (R101), the driver calls (R109) and the codes that select an operation
(R103, R104, R105). -/

namespace Sys2Proof

/-- A byte of application data, or a bus address (R8 `ADDR_BITS`). -/
abbrev Byte := BitVec 8

/-- The payload word: bit 0 is the address flag, bits 8:1 the data byte (R91). -/
abbrev Payload := BitVec 9

/-- A frame word as the engines hold it: payload in bits 8:0, parity in bit 9 (R21, R27, R28). -/
abbrev FrameWord := BitVec 10

/-- A host-visible register (R8 `REGW`). -/
abbrev Reg := BitVec 16

/-- The 20-bit command word `we ‖ reg[2:0] ‖ wdata[15:0]` of a host access (R103). -/
abbrev HostCmd := BitVec 20

/-- The driver's parity modes (R101). -/
inductive ParityMode where
  | noParity
  | odd
  | even
  deriving DecidableEq, Repr

/-- A call of the Host Frame Driver with the arguments its caller passes (R109). `baud` and the data arguments are
numbers of any size: the driver divides by the one (R218) and masks the others to 8 bits (R232). -/
inductive DriverCall where
  | configure (baud : Nat) (mode : BitVec 2) (own : Byte)
  | send (isAddress : Bool) (data : Nat)
  | sendAddress (addr : Nat)
  | sendData (data : Nat)
  | receive
  deriving DecidableEq, Repr

/-- What selects an operation (R12). `tx` is the 5-bit TXFSM code `tx_state ‖ tx_idx` (R104). `rx` is the 2-bit RXFSM
code with the two things that split it, the counter and the input level (R105). A driver call has no binary code and
is selected by its name. -/
inductive Code where
  | host (cmd : HostCmd)
  | tx (code : BitVec 5)
  | rx (state : BitVec 2) (cnt : BitVec 17) (level : Bool)
  | call (c : DriverCall)
  deriving DecidableEq, Repr

end Sys2Proof
end

