-- ==== Sys2Proof/Config.lean ====
section
/-! DEFINITION. What a platform or the environment fixes and the spec leaves open: the free values of the model (R11
`any(N)`, R47 the input stream) and the numeric parameters of `00_scope.md` R8. -/

namespace Sys2Proof

/-- `any(N)` of R11: the `k`-th draw that the instance named `ident` makes of an unspecified value of width `n`. It has no
body, so no proof can rest on a value of it, and two draws, or draws of two instances, may differ. That it is a function,
so that one name and one count give one value, is the model's choice. (DESIGN CHOICE, log entries 4 and 18.) -/
opaque Config.anyBits (ident n k : Nat) : BitVec n

/-- The level the line environment gives `rx_in` of the instance named `ident` at tick `t` where State lists none (R13,
R47). It has no body. That it is a function, so that one name and one tick give one level, is the model's choice. (DESIGN
CHOICE, log entries 2 and 18.) -/
opaque Config.lineLevel (ident t : Nat) : Bool

/-- `DIV_MIN`, the least `cycles_per_bit` the engines run with (R8, R122). -/
def Config.divMin : Nat := 2

/-- The greatest `cycles_per_bit`, set by the 16-bit width of the divisor registers (R122). -/
def Config.divMax : Nat := 65535

/-- BLOG's reference system clock, 125,000,000 Hz (R8, R121): the value `State.reset` gives the platform parameter
`CLOCK_HZ`. (DESIGN CHOICE, log entry 14.) -/
def Config.referenceClockHz : Nat := 125000000

end Sys2Proof
end

