-- ==== Sys2Proof/Syntax.lean ====
section
/-! DEFINITION. The operations of UART9, one constructor per row of `opcode_table.json` (R12): sixteen host register
accesses, five transitions of the transmit engine, eight rows of the receive engine, five driver operations. -/

namespace Sys2Proof

/-- An operation of UART9. -/
inductive Instr where
  | rdTxdata
  | rdRxdata
  | rdStatus
  | rdCtrl
  | rdTxdiv
  | rdRxdiv
  | rdRsvd6
  | rdRsvd7
  | wrTxdata (v : Reg)
  | wrRxdata (v : Reg)
  | wrStatus (v : Reg)
  | wrCtrl (v : Reg)
  | wrTxdiv (v : Reg)
  | wrRxdiv (v : Reg)
  | wrRsvd6 (v : Reg)
  | wrRsvd7 (v : Reg)
  | txIdle
  | txStart
  /-- `TX.DATA` carries the index of the bit on the line, the `iiii` of its pattern `1iiii` (R104). -/
  | txData (idx : BitVec 4)
  | txParity
  | txStop
  | rxIdle
  | rxSamplingCount
  | rxSamplingSample
  | rxStopCheckCount
  | rxStopCheckHigh
  | rxDeliver
  | rxStopCheckLow
  | rxFramingError
  | configure (baud : Nat) (mode : BitVec 2) (own : Byte)
  | send (isAddress : Bool) (data : Nat)
  | sendAddress (addr : Nat)
  | sendData (data : Nat)
  | receive
  deriving DecidableEq, Repr

end Sys2Proof
end

