-- ==== Sys2Proof/Machine/State.lean ====
section
/-! DEFINITION. The state of one UART9 instance as plain data (`10_state.md` R20 to R46): the hardware registers, the
driver's variables (R30), and the model's own fields for what R13, R47 and R302 give the agents around the block (the
input line, the host's script, a held write, the values a host has been given). -/

namespace Sys2Proof.Machine

/-- The transmit engine's state register (R31). -/
inductive TxState where
  | idle
  | shift
  deriving DecidableEq, Repr

/-- The receive engine's state register (R31). -/
inductive RxState where
  | idle
  | sampling
  | stopCheck
  | framingError
  deriving DecidableEq, Repr

/-- A decoded frame: the pair `is_address`, `data` (R30, R213). -/
structure Frame where
  isAddress : Bool
  data : Byte
  deriving DecidableEq, Repr

/-- The record a `receive` returns (R102). -/
structure RxResult where
  valid : Bool
  isAddress : Bool
  data : Byte
  error : Bool
  deriving DecidableEq, Repr

/-- The driver's variables (R30, R35). -/
structure Driver where
  parityMode : ParityMode
  ownAddress : Byte
  listening : Bool
  lastFrame : Option Frame
  lastError : Bool
  cpb : BitVec 16
  deriving DecidableEq, Repr

/-- What drives `rx_in` (R73): the line environment, or the block's own `tx_out` one tick late. -/
inductive Wiring where
  | environment
  | loopback
  deriving DecidableEq, Repr

/-- One line of a script (R111): a host register access by its command word, a driver call by its name, the blocking
form of `receive` (R229), one tick, or the reset step (R280). -/
inductive Event where
  | access (cmd : HostCmd)
  | call (c : DriverCall)
  | await
  | tick
  | reset
  deriving DecidableEq, Repr

/-- What may fall between two accesses of one driver operation: a tick (R66) or the reset step (R280). -/
inductive Lull where
  | tick
  | reset
  deriving DecidableEq, Repr

/-- What can be observed from outside (R302). A refused access is the outcome of its step and leaves no observation. -/
inductive Observation where
  /-- (a) The level of `tx_out` after a tick. -/
  | level (high : Bool)
  /-- (b) The value a host read returns. -/
  | read (v : Reg)
  /-- (c) A host write is accepted. A `send` returns when its word is (R219), so this is (d)'s return of a `send` too. -/
  | accepted
  /-- (c) A host write is held. -/
  | held
  /-- (d) The record a `receive` returns. -/
  | record (r : RxResult)
  deriving DecidableEq, Repr

/-- One UART9 instance with its driver and its surroundings. -/
structure State where
  /-- `CTRL[0]` (R41). -/
  en : Bool
  /-- `TXDIV` (R42). -/
  txDiv : BitVec 16
  /-- `RXDIV` (R43). -/
  rxDiv : BitVec 16
  /-- The transmitter's single-frame buffer (R21). -/
  txSlot : FrameWord
  /-- Its occupancy, `STATUS[0]` (R22). -/
  txFull : Bool
  /-- `tx_state` (R31). -/
  txState : TxState
  /-- Index of the wire-frame bit on the line (R23). -/
  txIdx : BitVec 4
  /-- The transmitter's bit-timing counter (R23). -/
  txCnt : BitVec 16
  /-- The output line, `true` is high and idle (R24). -/
  txOut : Bool
  /-- `rx_state` (R31). -/
  rxState : RxState
  /-- `rx_in` at the tick before (R25). -/
  rxPrev : Bool
  /-- The receiver's bit-timing counter (R26). -/
  rxCnt : BitVec 17
  /-- Samples still to take (R26). -/
  rxBits : BitVec 4
  /-- The frame being collected (R27). -/
  rxShift : FrameWord
  /-- The receiver's single-slot buffer (R28). -/
  rxSlot : FrameWord
  /-- Its occupancy, `STATUS[1]` (R28). -/
  rxValid : Bool
  /-- The sticky framing-error flag, `STATUS[2]` (R29). -/
  rxFerr : Bool
  /-- The driver's variables; none before the first `configure` (R30, R215). -/
  driver : Option Driver
  /-- `CLOCK_HZ`, a platform parameter no step changes (R8, R47; log entry 14). -/
  clockHz : Nat
  /-- The level of the input `rx_in` at the present tick (R44, R171). -/
  rxIn : Bool
  /-- What drives `rx_in` (R73). -/
  wiring : Wiring
  /-- The levels of `rx_in` at the next ticks, next first; where it lists none the level is free (R47, R111). -/
  line : List Bool
  /-- Ticks counted, for the naming of ticks (R10) and of the free levels. -/
  ticks : Nat
  /-- The steps the host and the other agents are to take, next first (R111, R303). -/
  script : List Event
  /-- What falls before the second and each later access of the driver operations to come, and between two polls of a
  blocking `receive`, next first (R66, R299; log entries 8 and 9). -/
  gaps : List (List Lull)
  /-- A `WR TXDATA` the host is held in (R140). -/
  held : Option Reg
  /-- The value the last host read returned (R302). -/
  readValue : Reg
  /-- The record the last `receive` returned (R302). -/
  result : RxResult
  /-- Draws of `any(N)` made so far (R11). -/
  draws : Nat
  /-- The identity of the instance, a parameter no step changes (R47; log entry 18). -/
  ident : Nat
  /-- All that has been observed of the instance, latest first (R302; log entry 27). -/
  trace : List Observation
  deriving DecidableEq, Repr

/-- Why a run stops with a fault. -/
inductive Fault where
  /-- Raised by a tick in `T_SHIFT` with `tx_idx` 12 to 15: "unreachable; a model need give no transition" (U20, R104).
  Safe: the model stops where the spec gives no transition (log entry 10). -/
  | txCodeUnreachable
  /-- Raised by a tick in `SAMPLING` or `STOP_CHECK` with `rx_cnt = 0`: the tables of R190 have no such row and R124
  says the counter never holds 0 there. Safe: the model stops (log entry 11). -/
  | rxCounterZero
  deriving DecidableEq, Repr

/-- Why an operation is refused: the spec gives it no meaning (R11 `refuse`, R107). Each is safe: the run ends and
nothing is proved of it. -/
inductive Refusal where
  /-- Raised only by `exec`'s arm of an operation that has no meaning yet. -/
  | notModelled (mnemonic : String)
  /-- `WR TXDATA` with `EN = 0` (R140, U18). -/
  | txWriteWhileDisabled
  /-- `WR TXDATA` with any of bits 15:10 set (R140, R152, U1). -/
  | malformedTxWord
  /-- `RD TXDATA` (R141, U13). -/
  | readOfWriteOnlyRegister
  /-- `WR RXDATA` (R187, U13). -/
  | writeOfReadOnlyRegister
  /-- `WR STATUS` with any of bits 15:4, `WR CTRL` with any of bits 15:1 set (R237, R239, U15). -/
  | reservedBitsWritten
  /-- `WR CTRL` setting `EN` with a divisor below 2 (R239, U17). -/
  | enableWithIllegalDivisor
  /-- `WR CTRL` clearing `EN` while a frame is in flight (R239, U2). -/
  | configChangeInFlight
  /-- `WR TXDIV` or `WR RXDIV` with `EN = 1` (R129, R131, U2). -/
  | configChangeWhileEnabled
  /-- Any access to register 6 or 7 (R242, R243, U14). -/
  | reservedRegister
  /-- `configure` with parity code 3 or `baud = 0` (R218, U19). -/
  | badConfigureArgument
  /-- `configure` with `floor(CLOCK_HZ / baud)` outside 2..65535 (R218, U19). -/
  | baudOutOfRange
  /-- Any other driver operation before the first `configure` (R215, U19). -/
  | notConfigured
  /-- An engine transition asked for in a state whose code does not select it, or with `EN = 0`: it is no transition of
  that state (R32, R155, R190). No step asks for one (log entry 12). -/
  | transitionNotSelected
  /-- Raised by `busTick` for a line with two connected `tx_out` (R74, U21). -/
  | lineContention
  deriving DecidableEq, Repr

/-- The machine right after reset (R46, R280): every register the table gives a value at that value; the seven
registers it leaves `any(N)` at 0 (DESIGN CHOICE, log entry 3); no driver (R215); and the model's own fields as log
entries 1, 2, 4, 5, 8, 13, 14, 18, 24 and 27 say. -/
def State.reset : State where
  en := false
  txDiv := 0#16
  rxDiv := 0#16
  txSlot := 0#10
  txFull := false
  txState := .idle
  txIdx := 0#4
  txCnt := 0#16
  txOut := true
  rxState := .idle
  rxPrev := false
  rxCnt := 0#17
  rxBits := 0#4
  rxShift := 0#10
  rxSlot := 0#10
  rxValid := false
  rxFerr := false
  driver := none
  clockHz := Config.referenceClockHz
  rxIn := true
  wiring := .environment
  line := []
  ticks := 0
  script := []
  gaps := []
  held := none
  readValue := 0#16
  result := { valid := false, isAddress := false, data := 0#8, error := false }
  draws := 0
  ident := 0
  trace := []

end Sys2Proof.Machine
end

