-- ==== Sys2Proof/Machine/Operands.lean ====
section
/-! DEFINITION. The formats of `30_encoding.md` taken apart and put together: payload word, frame word, wire frame,
parity, the driver's two codecs, and the codes of the two state registers. -/

namespace Sys2Proof.Machine

/-! ### State codes (R31, R104, R105) -/

/-- `T_IDLE` = 0, `T_SHIFT` = 1 (R31). -/
def txStateCode : TxState → BitVec 1
  | .idle => 0#1
  | .shift => 1#1

/-- The state a 1-bit code stands for (R31). -/
def txStateOf (c : BitVec 1) : TxState := if c = 0#1 then .idle else .shift

/-- `IDLE` = 0, `SAMPLING` = 1, `STOP_CHECK` = 2, `FRAMING_ERROR` = 3 (R31). -/
def rxStateCode : RxState → BitVec 2
  | .idle => 0#2
  | .sampling => 1#2
  | .stopCheck => 2#2
  | .framingError => 3#2

/-- The state a 2-bit code stands for (R31). -/
def rxStateOf (c : BitVec 2) : RxState :=
  match c with
  | 0#2 => .idle
  | 1#2 => .sampling
  | 2#2 => .stopCheck
  | _ => .framingError

/-- The TXFSM code `tx_state ‖ tx_idx` the transmit engine is at (R104). -/
def txCode (s : State) : BitVec 5 := txStateCode s.txState ++ s.txIdx

/-! ### Frames (R90 to R100) -/

/-- The payload word `zext_9(is_address) | (zext_9(data) << 1)` (R97). -/
def payloadOf (isAddress : Bool) (data : Byte) : Payload :=
  (BitVec.ofBool isAddress).setWidth 9 ||| (data.setWidth 9 <<< 1)

/-- The frame word `zext_16(P) | (zext_16(parity) << 9)` (R98). -/
def frameWordOf (p : Payload) (parity : Bool) : Reg :=
  p.setWidth 16 ||| ((BitVec.ofBool parity).setWidth 16 <<< 9)

/-- `wire_bit(W, i)`, the bit on the line in the bit period with index `i` (R99). The rule gives 0 to 11; the indexes
12 to 15 occur in no transition and take the stop bit's level. -/
def wireBit (w : FrameWord) (i : BitVec 4) : Bool :=
  if i = 0#4 then false
  else if i.toNat ≤ 10 then w.getLsbD (i.toNat - 1)
  else true

/-- The payload word of a raw frame (R100). -/
def rawPayload (w : Reg) : Payload := w.extractLsb' 0 9

/-- The parity bit of a raw frame (R100). -/
def rawParity (w : Reg) : Bool := w.getLsbD 9

/-- `is_address` and `data` of a payload word (R100). -/
def frameOf (p : Payload) : Frame := { isAddress := p.getLsbD 0, data := p.extractLsb' 1 8 }

/-! ### Parity and the codecs (R101, R210 to R216) -/

/-- The mode a 2-bit code stands for; code 3 is reserved (R101). -/
def parityModeOf (c : BitVec 2) : Option ParityMode :=
  match c with
  | 0#2 => some .noParity
  | 1#2 => some .odd
  | 2#2 => some .even
  | _ => none

/-- `xor_reduce(P[8:0])` (R9). -/
def xorReduce (p : Payload) : Bool :=
  (List.range 9).foldl (fun acc k => acc ^^ p.getLsbD k) false

/-- The bit in the parity position: `base ^ xor_reduce(P)` with base 1 for ODD and 0 for EVEN (R210), and 0 for NONE
(R216). -/
def parityBit (mode : ParityMode) (p : Payload) : Bool :=
  match mode with
  | .noParity => false
  | .odd => true ^^ xorReduce p
  | .even => false ^^ xorReduce p

/-- `data & 0xFF` (R212, R232). -/
def maskData (data : Nat) : Byte := BitVec.ofNat 8 data

/-- `encode(is_address, data, mode)`: the word the driver writes to `TXDATA` (R212). -/
def encodeFrame (mode : ParityMode) (isAddress : Bool) (data : Nat) : Reg :=
  let p := payloadOf isAddress (maskData data)
  frameWordOf p (parityBit mode p)

/-- Whether a mode checks the parity position (R213, R216). -/
def parityGood (mode : ParityMode) (w : Reg) : Bool :=
  match mode with
  | .noParity => true
  | .odd | .even => rawParity w == parityBit mode (rawPayload w)

/-- `decode(RXW, mode)`: the frame, or none for `parity_error` (R213). -/
def decodeFrame (mode : ParityMode) (w : Reg) : Option Frame :=
  if parityGood mode w then some (frameOf (rawPayload w)) else none

/-! ### Bit timing (R120, R126) -/

/-- `floor(CLOCK_HZ / baud)` (R120). -/
def cyclesPerBit (clockHz baud : Nat) : Nat := clockHz / baud

/-- The load at the start edge, `RXDIV + floor(RXDIV / 2)` in 17 bits (R126, R172). -/
def firstSampleDelay (rxDiv : BitVec 16) : BitVec 17 :=
  rxDiv.setWidth 17 + (rxDiv >>> 1).setWidth 17

/-- The sample enters at bit 9 and the rest move down one place: `x ‖ rx_shift[9:1]` (R174). -/
def shiftIn (x : Bool) (w : FrameWord) : FrameWord := BitVec.cons x (w.extractLsb' 1 9)

end Sys2Proof.Machine
end

