-- ==== Sys2Proof/Machine/Flags.lean ====
section
/-! DEFINITION. The flags and what is computed of them: `STATUS` as read (R236), `CTRL` as read (R238), the predicate
`idle` (R245), and the tests of reserved bits on a write (R244). -/

namespace Sys2Proof.Machine

/-- `RX_BUSY`: `rx_state != IDLE` (R34, R40). -/
def rxBusy (s : State) : Bool := s.rxState != .idle

/-- `STATUS` as read: `zext_16(b ‖ rx_ferr ‖ rx_valid ‖ tx_full)` (R236). -/
def statusWord (s : State) : Reg :=
  (BitVec.ofBool (rxBusy s) ++ BitVec.ofBool s.rxFerr ++ BitVec.ofBool s.rxValid ++ BitVec.ofBool s.txFull).setWidth 16

/-- `CTRL` as read: `zext_16(EN)` (R238). -/
def ctrlWord (s : State) : Reg := (BitVec.ofBool s.en).setWidth 16

/-- `idle`: no word waiting or being sent, no frame being received (R245). -/
def engineIdle (s : State) : Bool := !s.txFull && !rxBusy s

/-- Bits 15:10 of a word written to `TXDATA` are all 0 (R92, R140). -/
def txWordOk (v : Reg) : Bool := v.extractLsb' 10 6 == 0#6

/-- Bits 15:4 of a word written to `STATUS` are all 0 (R94, R237). -/
def statusWriteOk (v : Reg) : Bool := v.extractLsb' 4 12 == 0#12

/-- Bits 15:1 of a word written to `CTRL` are all 0 (R95, R239). -/
def ctrlWriteOk (v : Reg) : Bool := v.extractLsb' 1 15 == 0#15

/-- `TXDIV` and `RXDIV` both at least 2, as setting `EN` needs (R239). -/
def divisorsLegal (s : State) : Bool :=
  Config.divMin ≤ s.txDiv.toNat && Config.divMin ≤ s.rxDiv.toNat

end Sys2Proof.Machine
end

