-- ==== Sys2Proof/Machine/Ops.lean ====
section
/-! DEFINITION. The shared operations: sequencing of outcomes, the values a host is given, the counter primitives LOAD,
COUNT and EXPIRE (R124) as each engine uses them, `raise FramingError` and `raise ParityError` (R11), the input line
(R73, R171), and the reset step (R280). -/

namespace Sys2Proof.Machine

/-- What an operation or a step answers. -/
abbrev Result := Host.Outcome State Fault Refusal

/-- Go on with `f` from the next state; a fault or a refusal ends the operation (R11). -/
def andThen (r : Result) (f : State → Result) : Result :=
  match r with
  | .next s => f s
  | .fault e => .fault e
  | .refused e => .refused e

/-! ### What is observed (R302) -/

/-- A host read returns `v`. -/
def returnRead (s : State) (v : Reg) : State := { s with readValue := v, trace := .read v :: s.trace }

/-- A host read returns `any(16)`: a fresh draw (R11, R186). -/
def returnAny (s : State) : State :=
  { s with
    readValue := Config.anyBits s.ident 16 s.draws
    draws := s.draws + 1
    trace := .read (Config.anyBits s.ident 16 s.draws) :: s.trace }

/-- The record `r` is the result of a poll (R222). -/
def returnResult (s : State) (r : RxResult) : State := { s with result := r }

/-- A `receive` returns the record its last poll made (R102, R229). -/
def reportResult (s : State) : State := { s with trace := .record s.result :: s.trace }

/-- A host write is accepted. -/
def acceptWrite (s : State) : State := { s with trace := .accepted :: s.trace }

/-- The write is held: the host makes no other access until `tx_full = 0` (R140). -/
def holdWrite (s : State) (v : Reg) : State := { s with held := some v, trace := .held :: s.trace }

/-- `tx_slot <- v[9:0]; tx_full <- 1`, and a hold is over (R140). -/
def acceptWord (s : State) (v : Reg) : State :=
  { s with txSlot := v.extractLsb' 0 10, txFull := true, held := none, trace := .accepted :: s.trace }

/-- A tick is over: `tx_out` can be seen. -/
def endTick (s : State) : State := { s with trace := .level s.txOut :: s.trace }

/-! ### Flags and enable -/

/-- `rx_valid <- 0`, `rx_slot` keeps its bits (R186). -/
def popSlot (s : State) : State := { s with rxValid := false }

/-- `rx_ferr <- 0` (R237). -/
def clearFerr (s : State) : State := { s with rxFerr := false }

/-- `EN <- 1` (R239). -/
def setEn (s : State) : State := { s with en := true }

/-- `EN <- 0`. `rx_prev` is forced to 0 while `EN = 0`, so it is 0 from here on (R25, R241; DEDUCED, log entry 7). -/
def clearEn (s : State) : State := { s with en := false, rxPrev := false }

/-! ### The transmit engine (R124, R144) -/

/-- `COUNT(tx_cnt)` (R124). -/
def txCount (s : State) : State := { s with txCnt := s.txCnt - 1#16 }

/-- Put the wire bit with index `i` on the line and `LOAD(tx_cnt, TXDIV)` (R124, R144). -/
def txEmit (s : State) (i : BitVec 4) : State :=
  { s with txIdx := i, txOut := wireBit s.txSlot i, txCnt := s.txDiv }

/-- Begin a frame: `T_SHIFT` with the start bit on the line (R143). -/
def txBegin (s : State) : State :=
  { s with txState := .shift, txIdx := 0#4, txCnt := s.txDiv, txOut := false }

/-- End a frame: `tx_state <- T_IDLE; tx_full <- 0` (R148). -/
def txFinish (s : State) : State := { s with txState := .idle, txFull := false }

/-- Common to the four phases of `T_SHIFT`: count while `tx_cnt > 1`, else the phase's own action (R144). -/
def txHoldBit (s : State) (expired : State) : State := if 1 < s.txCnt.toNat then txCount s else expired

/-! ### The receive engine (R171 to R180) -/

/-- `rx_prev <- x`, part of every receive transition (R171). -/
def rxLatch (s : State) : State := { s with rxPrev := s.rxIn }

/-- `COUNT(rx_cnt)` (R124). -/
def rxCount (s : State) : State := { s with rxCnt := s.rxCnt - 1#17 }

/-- The start edge: `SAMPLING`, ten samples to take, the first one and a half bit periods away (R172). -/
def rxBegin (s : State) : State :=
  { s with rxState := .sampling, rxCnt := firstSampleDelay s.rxDiv, rxBits := 10#4, rxShift := 0#10 }

/-- Take one sample; after the tenth, go to `STOP_CHECK` (R174). -/
def rxSample (s : State) : State :=
  { s with
    rxShift := shiftIn s.rxIn s.rxShift
    rxBits := s.rxBits - 1#4
    rxCnt := s.rxDiv.setWidth 17
    rxState := if s.rxBits = 1#4 then .stopCheck else s.rxState }

/-- `DELIVER`: `rx_slot <- rx_shift; rx_valid <- 1`, whatever `rx_valid` was (R177, R188). -/
def deliver (s : State) : State := { s with rxSlot := s.rxShift, rxValid := true }

/-- `rx_state <- IDLE`. -/
def rxToIdle (s : State) : State := { s with rxState := .idle }

/-- `raise FramingError`: `rx_ferr <- 1; rx_state <- FRAMING_ERROR` (R11, R179). Control goes nowhere (R258). -/
def raiseFramingError (s : State) : State := { s with rxFerr := true, rxState := .framingError }

/-- An engine transition is made only in a state that selects it, at a tick with `EN = 1` (R32, R155, R190). -/
def whenSelected (selected : Bool) (s : State) : Result :=
  if selected then .next s else .refused .transitionNotSelected

/-! ### The driver's variables (R30) -/

/-- Replace the driver's variables. -/
def setDriver (s : State) (d : Driver) : State := { s with driver := some d }

/-- An error `receive` observes: `last_error <- 1`, and the call returns `error = 1` (R11, R225, R226). -/
def raiseDriverError (s : State) (d : Driver) : State :=
  returnResult (setDriver s { d with lastError := true })
    { valid := false, isAddress := false, data := 0#8, error := true }

/-- A call of `receive` that delivers nothing and observed no error (R222). -/
def returnNothing (s : State) : State :=
  returnResult s { valid := false, isAddress := false, data := 0#8, error := false }

/-- A frame delivered to the caller (R102). -/
def returnFrame (s : State) (f : Frame) : State :=
  returnResult s { valid := true, isAddress := f.isAddress, data := f.data, error := false }

/-! ### The input line (R13, R73) -/

/-- The level of `rx_in` at the coming tick: the next listed level (R111); where none is listed, the block's own output
before the tick if it is wired back (R73), and else a free level (R47). -/
def nextLevel (s : State) : Bool :=
  match s.line, s.wiring with
  | x :: _, _ => x
  | [], .loopback => s.txOut
  | [], .environment => Config.lineLevel s.ident s.ticks

/-- A tick begins: the level is on `rx_in`, and the tick is counted (R10, R13). -/
def beginTick (s : State) (level : Bool) : State :=
  { s with rxIn := level, line := s.line.tail, ticks := s.ticks + 1 }

/-- What a tick does with `EN = 0`: `rx_prev <- 0` and nothing else (R149, R182). -/
def disabledTick (s : State) : State := { s with rxPrev := false }

/-! ### Reset (R280) -/

/-- The reset step: the registers the rule names at their values, seven at fresh draws of `any(N)`. It touches no
driver state (R282) and nothing outside the block. -/
def resetStep (s : State) : State :=
  { s with
    en := false
    txDiv := 0#16
    rxDiv := 0#16
    txSlot := Config.anyBits s.ident 10 s.draws
    txFull := false
    txState := .idle
    txIdx := Config.anyBits s.ident 4 (s.draws + 1)
    txCnt := Config.anyBits s.ident 16 (s.draws + 2)
    txOut := true
    rxState := .idle
    rxPrev := false
    rxCnt := Config.anyBits s.ident 17 (s.draws + 3)
    rxBits := Config.anyBits s.ident 4 (s.draws + 4)
    rxShift := Config.anyBits s.ident 10 (s.draws + 5)
    rxSlot := Config.anyBits s.ident 10 (s.draws + 6)
    rxValid := false
    rxFerr := false
    draws := s.draws + 7 }

end Sys2Proof.Machine
end

