-- ==== Sys2Proof/Machine/BitTiming.lean ====
section
/-! DEFINITION. The Bit-Timing Engine's host accesses (`40_bit_timing.md` R129 to R132). -/

namespace Sys2Proof.Machine

/-- `RD TXDIV` (R130). -/
def execRdTxdiv (s : State) : Result := .next (returnRead s s.txDiv)

/-- `RD RXDIV` (R132). -/
def execRdRxdiv (s : State) : Result := .next (returnRead s s.rxDiv)

/-- `WR TXDIV` (R129). -/
def execWrTxdiv (v : Reg) (s : State) : Result :=
  if s.en then .refused .configChangeWhileEnabled else .next (acceptWrite { s with txDiv := v })

/-- `WR RXDIV` (R131). -/
def execWrRxdiv (v : Reg) (s : State) : Result :=
  if s.en then .refused .configChangeWhileEnabled else .next (acceptWrite { s with rxDiv := v })

end Sys2Proof.Machine
end

