-- ==== Sys2Proof/Machine/ControlStatus.lean ====
section
/-! DEFINITION. The accesses to `STATUS`, `CTRL` and the reserved registers (`44_control_status.md` R236 to R243). -/

namespace Sys2Proof.Machine

/-- `RD STATUS` (R236). -/
def execRdStatus (s : State) : Result := .next (returnRead s (statusWord s))

/-- `WR STATUS`: write one to bit 2 to clear `rx_ferr`; bits 0, 1 and 3 are ignored (R237). -/
def execWrStatus (v : Reg) (s : State) : Result :=
  if !statusWriteOk v then .refused .reservedBitsWritten
  else .next (acceptWrite (if v.getLsbD 2 then clearFerr s else s))

/-- `RD CTRL` (R238). -/
def execRdCtrl (s : State) : Result := .next (returnRead s (ctrlWord s))

/-- `WR CTRL`: enable or disable both engines (R239). -/
def execWrCtrl (v : Reg) (s : State) : Result :=
  if !ctrlWriteOk v then .refused .reservedBitsWritten
  else if v.getLsbD 0 && !s.en then
    if !divisorsLegal s then .refused .enableWithIllegalDivisor else .next (acceptWrite (setEn s))
  else if !v.getLsbD 0 && s.en then
    if !engineIdle s then .refused .configChangeInFlight else .next (acceptWrite (clearEn s))
  else .next (acceptWrite s)

/-- `RD RSVD6`: refused in every state (R242). -/
def execRdRsvd6 (_s : State) : Result := .refused .reservedRegister

/-- `RD RSVD7`: refused in every state (R242). -/
def execRdRsvd7 (_s : State) : Result := .refused .reservedRegister

/-- `WR RSVD6`: refused in every state and for every value (R243). -/
def execWrRsvd6 (_v : Reg) (_s : State) : Result := .refused .reservedRegister

/-- `WR RSVD7`: refused in every state and for every value (R243). -/
def execWrRsvd7 (_v : Reg) (_s : State) : Result := .refused .reservedRegister

end Sys2Proof.Machine
end

