-- ==== Sys2Proof/WellFormed.lean ====
section
/-! DEFINITION. The operands the spec's encodings admit. Two rows have an operand with excluded values: `TX.DATA`,
whose index is 1 to 9 (R104), and `configure`, whose parity code 3 is reserved (R101). -/

namespace Sys2Proof

/-- Every operand is at a value the encoding of the operation admits. -/
def WellFormed : Instr → Bool
  | .txData idx => 1 ≤ idx.toNat && idx.toNat ≤ 9
  | .configure _ mode _ => mode != 3#2
  | .rdTxdata | .rdRxdata | .rdStatus | .rdCtrl | .rdTxdiv | .rdRxdiv | .rdRsvd6 | .rdRsvd7 => true
  | .wrTxdata _ | .wrRxdata _ | .wrStatus _ | .wrCtrl _ | .wrTxdiv _ | .wrRxdiv _ | .wrRsvd6 _ | .wrRsvd7 _ => true
  | .txIdle | .txStart | .txParity | .txStop => true
  | .rxIdle | .rxSamplingCount | .rxSamplingSample | .rxStopCheckCount | .rxStopCheckHigh | .rxDeliver
  | .rxStopCheckLow | .rxFramingError => true
  | .send _ _ | .sendAddress _ | .sendData _ | .receive => true

end Sys2Proof
end

