-- ==== Sys2Proof/Decode.lean ====
section
/-! DEFINITION. From codes to operations and back: HOSTOP (R103), TXFSM (R104), RXFSM (R105) and the driver's call
names (R109); and the numbers by which `opcode_table.json` numbers an encoding. -/

namespace Sys2Proof

/-- Why a code selects no operation. -/
inductive DecodeError where
  /-- TXFSM `11100` to `11111`, `tx_idx` 12 to 15 in `T_SHIFT`: unreachable (R104, R106). -/
  | txCodeUnreachable
  /-- `rx_cnt = 0` in `SAMPLING` or `STOP_CHECK`: no row has that condition (R105, R124). -/
  | rxCounterZero
  deriving DecidableEq, Repr

/-- The operation of a host access (R103). The table's mask is `0xF0000`: the low 16 bits select nothing, and a read
does not look at them (log entry 15). -/
def decodeHost (cmd : HostCmd) : Instr :=
  let v : Reg := cmd.extractLsb' 0 16
  match cmd.extractLsb' 16 4 with
  | 0x0#4 => .rdTxdata
  | 0x1#4 => .rdRxdata
  | 0x2#4 => .rdStatus
  | 0x3#4 => .rdCtrl
  | 0x4#4 => .rdTxdiv
  | 0x5#4 => .rdRxdiv
  | 0x6#4 => .rdRsvd6
  | 0x7#4 => .rdRsvd7
  | 0x8#4 => .wrTxdata v
  | 0x9#4 => .wrRxdata v
  | 0xA#4 => .wrStatus v
  | 0xB#4 => .wrCtrl v
  | 0xC#4 => .wrTxdiv v
  | 0xD#4 => .wrRxdiv v
  | 0xE#4 => .wrRsvd6 v
  | _ => .wrRsvd7 v

/-- The transition a TXFSM code selects (R104). -/
def decodeTx (code : BitVec 5) : Except DecodeError Instr :=
  let idx : BitVec 4 := code.extractLsb' 0 4
  if code.getLsbD 4 = false then .ok .txIdle
  else if idx = 0#4 then .ok .txStart
  else if idx.toNat ≤ 9 then .ok (.txData idx)
  else if idx = 10#4 then .ok .txParity
  else if idx = 11#4 then .ok .txStop
  else .error .txCodeUnreachable

/-- The transition an RXFSM code selects with the counter and the level it splits on (R105). `RX.DELIVER` has no code
of its own: its row carries the code of `RX.STOP_CHECK.high`, which performs it (R177). -/
def decodeRx (state : BitVec 2) (cnt : BitVec 17) (level : Bool) : Except DecodeError Instr :=
  match state with
  | 0#2 => .ok .rxIdle
  | 1#2 =>
    if cnt = 0#17 then .error .rxCounterZero
    else if cnt = 1#17 then .ok .rxSamplingSample
    else .ok .rxSamplingCount
  | 2#2 =>
    if cnt = 0#17 then .error .rxCounterZero
    else if cnt = 1#17 then (if level then .ok .rxStopCheckHigh else .ok .rxStopCheckLow)
    else .ok .rxStopCheckCount
  | _ => .ok .rxFramingError

/-- The operation a driver call names (R109). -/
def decodeCall : DriverCall → Instr
  | .configure baud mode own => .configure baud mode own
  | .send isAddress data => .send isAddress data
  | .sendAddress addr => .sendAddress addr
  | .sendData data => .sendData data
  | .receive => .receive

/-- The operation a code selects. -/
def decode : Code → Except DecodeError Instr
  | .host cmd => .ok (decodeHost cmd)
  | .tx code => decodeTx code
  | .rx state cnt level => decodeRx state cnt level
  | .call c => .ok (decodeCall c)

/-- The command word of a host access from its HOSTOP code and the value written, zero for a read (R103). -/
def hostWord (op : BitVec 4) (v : Reg) : HostCmd := op ++ v

/-- A code of each operation, from the encoding tables (R103, R104, R105). Where a code leaves a condition or a
"don't care" open, the least value that selects the row stands there: `tx_idx` 0 for `TX.IDLE`, `rx_cnt` 2 for a
count, 1 for an expiry. -/
def encode : Instr → Code
  | .rdTxdata => .host (hostWord 0x0#4 0#16)
  | .rdRxdata => .host (hostWord 0x1#4 0#16)
  | .rdStatus => .host (hostWord 0x2#4 0#16)
  | .rdCtrl => .host (hostWord 0x3#4 0#16)
  | .rdTxdiv => .host (hostWord 0x4#4 0#16)
  | .rdRxdiv => .host (hostWord 0x5#4 0#16)
  | .rdRsvd6 => .host (hostWord 0x6#4 0#16)
  | .rdRsvd7 => .host (hostWord 0x7#4 0#16)
  | .wrTxdata v => .host (hostWord 0x8#4 v)
  | .wrRxdata v => .host (hostWord 0x9#4 v)
  | .wrStatus v => .host (hostWord 0xA#4 v)
  | .wrCtrl v => .host (hostWord 0xB#4 v)
  | .wrTxdiv v => .host (hostWord 0xC#4 v)
  | .wrRxdiv v => .host (hostWord 0xD#4 v)
  | .wrRsvd6 v => .host (hostWord 0xE#4 v)
  | .wrRsvd7 v => .host (hostWord 0xF#4 v)
  | .txIdle => .tx 0b00000#5
  | .txStart => .tx 0b10000#5
  | .txData idx => .tx (1#1 ++ idx)
  | .txParity => .tx 0b11010#5
  | .txStop => .tx 0b11011#5
  | .rxIdle => .rx 0b00#2 0#17 false
  | .rxSamplingCount => .rx 0b01#2 2#17 false
  | .rxSamplingSample => .rx 0b01#2 1#17 false
  | .rxStopCheckCount => .rx 0b10#2 2#17 false
  | .rxStopCheckHigh => .rx 0b10#2 1#17 true
  | .rxDeliver => .rx 0b10#2 1#17 true
  | .rxStopCheckLow => .rx 0b10#2 1#17 false
  | .rxFramingError => .rx 0b11#2 0#17 false
  | .configure baud mode own => .call (.configure baud mode own)
  | .send isAddress data => .call (.send isAddress data)
  | .sendAddress addr => .call (.sendAddress addr)
  | .sendData data => .call (.sendData data)
  | .receive => .call .receive

/-- An RXFSM word with its conditions: bits 1:0 the code, bit 2 set where the counter has expired, bit 3 the level. The
bits above the code are the model's own, for the conditions R105 states in words (log entry 16). -/
def rxTableCode (w : Nat) : Code :=
  .rx (BitVec.ofNat 2 w) (if w.testBit 2 then 1#17 else 2#17) (w.testBit 3)

/-- The code that `nbits` bits `w` of `opcode_table.json` stand for: 20 bits or more a HOSTOP command word, 5 bits a
TXFSM code, 2 bits an RXFSM code, and 8 bits, where the two engines' formats cannot be told apart by length, a TXFSM
code where bit 4 is set or all bits are clear and else an RXFSM word (log entry 16). No bits: a driver operation,
which has no encoding (R105). -/
def tableCode (nbits w : Nat) : Option Code :=
  if 20 ≤ nbits then (if w < 2 ^ 20 then some (.host (BitVec.ofNat 20 w)) else none)
  else if 8 < nbits ∨ nbits = 0 then none
  else if nbits ≤ 4 then (if w < 2 ^ 4 then some (rxTableCode w) else none)
  else if nbits = 5 then (if w < 2 ^ 5 then some (.tx (BitVec.ofNat 5 w)) else none)
  else if w = 0 ∨ (2 ^ 4 ≤ w ∧ w < 2 ^ 5) then some (.tx (BitVec.ofNat 5 w))
  else if w < 2 ^ 4 then some (rxTableCode w)
  else none

/-- The operation the decoder reads from `nbits` bits `w`, numbered as `opcode_table.json` numbers them. -/
def decodeTableWord (nbits w : Nat) : Option Instr :=
  match tableCode nbits w with
  | none => none
  | some c =>
    match decode c with
    | .ok i => some i
    | .error _ => none

end Sys2Proof
end

