-- ==== Sys2Proof/Machine/Receive.lean ====
section
/-! DEFINITION. The Receive State Machine: its transitions and its two host accesses (`42_receive.md` R172 to R187).
`x` of the rules is the field `rxIn`; every transition ends with `rx_prev <- x` (R171). -/

namespace Sys2Proof.Machine

/-- `EN = 1` and the engine in state `r` (R105). -/
def rxAt (s : State) (r : RxState) : Bool := s.en && s.rxState == r

/-- `RX.IDLE`: wait for a falling edge (R172). -/
def execRxIdle (s : State) : Result :=
  whenSelected (rxAt s .idle) (rxLatch (if s.rxPrev && !s.rxIn then rxBegin s else s))

/-- `RX.SAMPLING.count`, `rx_cnt > 1` (R173). -/
def execRxSamplingCount (s : State) : Result :=
  whenSelected (rxAt s .sampling && decide (1 < s.rxCnt.toNat)) (rxLatch (rxCount s))

/-- `RX.SAMPLING.sample`, `rx_cnt = 1` (R174). -/
def execRxSamplingSample (s : State) : Result :=
  whenSelected (rxAt s .sampling && s.rxCnt == 1#17) (rxLatch (rxSample s))

/-- `RX.STOP_CHECK.count`, `rx_cnt > 1` (R175). -/
def execRxStopCheckCount (s : State) : Result :=
  whenSelected (rxAt s .stopCheck && decide (1 < s.rxCnt.toNat)) (rxLatch (rxCount s))

/-- `EN = 1`, `STOP_CHECK` expired and the line high: what selects `RX.STOP_CHECK.high` and the action `RX.DELIVER`
within it (R176, R177). -/
def stopHighSelected (s : State) : Bool := rxAt s .stopCheck && s.rxCnt == 1#17 && s.rxIn

/-- `RX.STOP_CHECK.high`: `DELIVER` and back to `IDLE`, in one tick (R176). -/
def execRxStopCheckHigh (s : State) : Result :=
  whenSelected (stopHighSelected s) (rxLatch (rxToIdle (deliver s)))

/-- `RX.DELIVER`: the action alone, "and nothing else" (R177; log entry 17). -/
def execRxDeliver (s : State) : Result := whenSelected (stopHighSelected s) (deliver s)

/-- `RX.STOP_CHECK.low`: framing error (R179). -/
def execRxStopCheckLow (s : State) : Result :=
  whenSelected (rxAt s .stopCheck && s.rxCnt == 1#17 && !s.rxIn) (rxLatch (raiseFramingError s))

/-- `RX.FRAMING_ERROR`: wait for the line to return to idle (R180). -/
def execRxFramingError (s : State) : Result :=
  whenSelected (rxAt s .framingError) (rxLatch (if s.rxIn then rxToIdle s else s))

/-- `RD RXDATA`: take the delivered frame; `any(16)` where there is none (R186). -/
def execRdRxdata (s : State) : Result :=
  if s.rxValid then .next (popSlot (returnRead s (s.rxSlot.setWidth 16))) else .next (returnAny s)

/-- `WR RXDATA`: read only, refused in every state and for every value (R187). -/
def execWrRxdata (_v : Reg) (_s : State) : Result := .refused .writeOfReadOnlyRegister

end Sys2Proof.Machine
end

