-- ==== Sys2Proof/Machine/Transmit.lean ====
section
/-! DEFINITION. The Transmit State Machine: its two host accesses and its five transitions (`41_transmit.md` R140 to
R148). -/

namespace Sys2Proof.Machine

/-- `RD TXDATA`: write only, refused in every state (R141). -/
def execRdTxdata (_s : State) : Result := .refused .readOfWriteOnlyRegister

/-- `WR TXDATA`: the two refusals are tested before the hold (R140). -/
def execWrTxdata (v : Reg) (s : State) : Result :=
  if !s.en then .refused .txWriteWhileDisabled
  else if !txWordOk v then .refused .malformedTxWord
  else if s.txFull then .next (holdWrite s v)
  else .next (acceptWord s v)

/-- `EN = 1` and the engine in `T_SHIFT` at index `i` (R104). -/
def txAt (s : State) (i : BitVec 4) : Bool := s.en && s.txState == .shift && s.txIdx == i

/-- `TX.IDLE`: wait for a word, then put the start bit on the line (R143). -/
def execTxIdle (s : State) : Result :=
  whenSelected (s.en && s.txState == .idle) (if s.txFull then txBegin s else s)

/-- `TX.START`: hold the start bit, then put D0 on the line (R145). -/
def execTxStart (s : State) : Result :=
  whenSelected (txAt s 0#4) (txHoldBit s (txEmit s 1#4))

/-- `TX.DATA`: hold data bit D(`idx - 1`), then put the next bit on the line (R146). -/
def execTxData (idx : BitVec 4) (s : State) : Result :=
  whenSelected (txAt s idx && WellFormed (.txData idx)) (txHoldBit s (txEmit s (idx + 1#4)))

/-- `TX.PARITY`: hold the parity bit, then put the stop bit on the line (R147). -/
def execTxParity (s : State) : Result :=
  whenSelected (txAt s 10#4) (txHoldBit s (txEmit s 11#4))

/-- `TX.STOP`: hold the stop bit, then end the frame and free the buffer (R148). -/
def execTxStop (s : State) : Result :=
  whenSelected (txAt s 11#4) (txHoldBit s (txFinish s))

end Sys2Proof.Machine
end

