-- ==== Sys2Proof/Machine/Tick.lean ====
section
/-! DEFINITION. One tick of the clock (R10, R13, R32): each engine makes the one transition its code selects. -/

namespace Sys2Proof.Machine

/-- The stop a code without a transition makes (log entries 10 and 11). -/
def faultOf : DecodeError → Fault
  | .txCodeUnreachable => .txCodeUnreachable
  | .rxCounterZero => .rxCounterZero

/-- The meaning of an engine's transition; any other operation is no transition of an engine. -/
def engineExec (i : Instr) (s : State) : Result :=
  match i with
  | .txIdle => execTxIdle s
  | .txStart => execTxStart s
  | .txData idx => execTxData idx s
  | .txParity => execTxParity s
  | .txStop => execTxStop s
  | .rxIdle => execRxIdle s
  | .rxSamplingCount => execRxSamplingCount s
  | .rxSamplingSample => execRxSamplingSample s
  | .rxStopCheckCount => execRxStopCheckCount s
  | .rxStopCheckHigh => execRxStopCheckHigh s
  | .rxDeliver => execRxDeliver s
  | .rxStopCheckLow => execRxStopCheckLow s
  | .rxFramingError => execRxFramingError s
  | .rdTxdata | .rdRxdata | .rdStatus | .rdCtrl | .rdTxdiv | .rdRxdiv | .rdRsvd6 | .rdRsvd7
  | .wrTxdata _ | .wrRxdata _ | .wrStatus _ | .wrCtrl _ | .wrTxdiv _ | .wrRxdiv _ | .wrRsvd6 _ | .wrRsvd7 _
  | .configure _ _ _ | .send _ _ | .sendAddress _ | .sendData _ | .receive => .refused .transitionNotSelected

/-- The transition a code selects, or the stop of a code that selects none. -/
def runCode (c : Code) (s : State) : Result :=
  match decode c with
  | .ok i => engineExec i s
  | .error e => .fault (faultOf e)

/-- The transmit engine's transition at a tick with `EN = 1` (R155). -/
def txTick (s : State) : Result := runCode (.tx (txCode s)) s

/-- The receive engine's transition at a tick with `EN = 1` and input `rxIn` (R190). -/
def rxTick (s : State) : Result := runCode (.rx (rxStateCode s.rxState) s.rxCnt s.rxIn) s

/-- One tick with the given level on `rx_in`: both engines make one transition (they share no mutable state, R14; the order
is log entry 25), or none with `EN = 0` (R149, R182). -/
def tickAt (level : Bool) (s : State) : Result :=
  let s0 := beginTick s level
  andThen (if s0.en then andThen (txTick s0) rxTick else .next (disabledTick s0)) fun t => .next (endTick t)

/-- One tick, with the level the line has (R13). -/
def tick (s : State) : Result := tickAt (nextLevel s) s

/-- `n` ticks. -/
def ticksFor : Nat → State → Result
  | 0, s => .next s
  | n + 1, s => andThen (tick s) (ticksFor n)

/-- `n` ticks under the input stream `x`: at the tick that begins when `ticks = t` the level of `rx_in` is `x t` (R47). -/
def ticksOn (x : Nat → Bool) : Nat → State → Result
  | 0, s => .next s
  | n + 1, s => andThen (tickAt (x s.ticks) s) (ticksOn x n)

/-- The ticks and resets of a lull, one after the other. -/
def runLull : List Lull → State → Result
  | [], s => .next s
  | .tick :: rest, s => andThen (tick s) (runLull rest)
  | .reset :: rest, s => runLull rest (resetStep s)

/-- What falls before the next access of a driver operation (R66, R299): what `gaps` lists next, nothing where it lists
none. -/
def elapse (s : State) : Result :=
  match s.gaps with
  | [] => .next s
  | g :: rest => runLull g { s with gaps := rest }

end Sys2Proof.Machine
end

