-- ==== Sys2Proof/Machine/HostDriver.lean ====
section
/-! DEFINITION. The Host Frame Driver's operations (`43_host_driver.md` R218 to R222): sequences of host accesses with
ticks between them (R66) and updates of the driver's variables (R30). -/

namespace Sys2Proof.Machine

/-- A later access of a driver operation: what falls before it, then the access. -/
def nextAccess (access : State → Result) (s : State) : Result := andThen (elapse s) access

/-- The accesses of `configure` once its arguments are good, with `c` for both divisors (R218). -/
def configureAccesses (c : Reg) (s : State) : Result :=
  andThen (execRdCtrl s) fun s =>
  andThen (if s.readValue.getLsbD 0 then nextAccess (execWrCtrl 0x0000#16) s else .next s) fun s =>
  andThen (nextAccess (execWrTxdiv c) s) fun s =>
  andThen (nextAccess (execWrRxdiv c) s) fun s =>
  andThen (nextAccess execRdStatus s) fun s =>
  andThen (if s.readValue.getLsbD 1 then nextAccess execRdRxdata s else .next s) fun s =>
  andThen (nextAccess (execWrStatus 0x0004#16) s) fun s =>
  nextAccess (execWrCtrl 0x0001#16) s

/-- The driver's variables as `configure` leaves them (R215). -/
def freshDriver (mode : ParityMode) (own : Byte) (c : Reg) : Driver :=
  { parityMode := mode, ownAddress := own, listening := false, lastFrame := none, lastError := false, cpb := c }

/-- `configure(baud, parity_mode, own_address)` (R218). -/
def execConfigure (baud : Nat) (mode : BitVec 2) (own : Byte) (s : State) : Result :=
  match parityModeOf mode with
  | none => .refused .badConfigureArgument
  | some m =>
    if baud = 0 then .refused .badConfigureArgument
    else
      let c := cyclesPerBit s.clockHz baud
      if c < Config.divMin ∨ Config.divMax < c then .refused .baudOutOfRange
      else
        andThen (configureAccesses (BitVec.ofNat 16 c) s) fun t =>
        .next (setDriver t (freshDriver m own (BitVec.ofNat 16 c)))

/-- One frame of the driver: build the word, write it (R219). Refused before `configure` (R215). -/
def sendFrame (isAddress : Bool) (data : Nat) (s : State) : Result :=
  match s.driver with
  | none => .refused .notConfigured
  | some d => execWrTxdata (encodeFrame d.parityMode isAddress data) s

/-- `send(is_address, data)` (R219). -/
def execSend (isAddress : Bool) (data : Nat) (s : State) : Result := sendFrame isAddress data s

/-- `send_address(addr)`, exactly `send(true, addr)` (R220). -/
def execSendAddress (addr : Nat) (s : State) : Result := sendFrame true addr s

/-- `send_data(byte)`, exactly `send(false, byte)` (R221). -/
def execSendData (data : Nat) (s : State) : Result := sendFrame false data s

/-- What `receive` does with the raw frame `w` it has pulled: the parity check, then the address filter (R222 to R225,
R228). -/
def acceptFrame (d : Driver) (w : Reg) (s : State) : State :=
  match decodeFrame d.parityMode w with
  | none => raiseDriverError s d
  | some f =>
    if f.isAddress then
      returnFrame (setDriver s { d with lastFrame := some f, listening := f.data == d.ownAddress }) f
    else if d.listening then
      returnFrame (setDriver s { d with lastFrame := some f }) f
    else
      returnNothing (setDriver s { d with lastFrame := some f })

/-- One poll of the receiver (R222): a latched framing error first, then a waiting frame. -/
def pollReceiver (s : State) : Result :=
  match s.driver with
  | none => .refused .notConfigured
  | some d =>
    andThen (execRdStatus s) fun s =>
    if s.readValue.getLsbD 2 then
      andThen (nextAccess (execWrStatus 0x0004#16) s) fun s => .next (raiseDriverError s d)
    else if s.readValue.getLsbD 1 then
      andThen (nextAccess execRdRxdata s) fun s => .next (acceptFrame d s.readValue s)
    else .next (returnNothing s)

/-- `receive()` in its polling form (R222): one poll, whose record is returned. -/
def execReceive (s : State) : Result := andThen (pollReceiver s) fun t => .next (reportResult t)

end Sys2Proof.Machine
end

