-- ==== Sys2Proof/Machine/Dispatch.lean ====
section
/-! DEFINITION. The one dispatch from an operation to its meaning. -/

namespace Sys2Proof.Machine

def exec (i : Instr) (s : State) : Host.Outcome State Fault Refusal :=
  match i with
  | .rdTxdata => Sys2Proof.Machine.execRdTxdata s
  | .rdRxdata => Sys2Proof.Machine.execRdRxdata s
  | .rdStatus => Sys2Proof.Machine.execRdStatus s
  | .rdCtrl => Sys2Proof.Machine.execRdCtrl s
  | .rdTxdiv => Sys2Proof.Machine.execRdTxdiv s
  | .rdRxdiv => Sys2Proof.Machine.execRdRxdiv s
  | .rdRsvd6 => Sys2Proof.Machine.execRdRsvd6 s
  | .rdRsvd7 => Sys2Proof.Machine.execRdRsvd7 s
  | .wrTxdata v => Sys2Proof.Machine.execWrTxdata v s
  | .wrRxdata v => Sys2Proof.Machine.execWrRxdata v s
  | .wrStatus v => Sys2Proof.Machine.execWrStatus v s
  | .wrCtrl v => Sys2Proof.Machine.execWrCtrl v s
  | .wrTxdiv v => Sys2Proof.Machine.execWrTxdiv v s
  | .wrRxdiv v => Sys2Proof.Machine.execWrRxdiv v s
  | .wrRsvd6 v => Sys2Proof.Machine.execWrRsvd6 v s
  | .wrRsvd7 v => Sys2Proof.Machine.execWrRsvd7 v s
  | .txIdle => Sys2Proof.Machine.execTxIdle s
  | .txStart => Sys2Proof.Machine.execTxStart s
  | .txData idx => Sys2Proof.Machine.execTxData idx s
  | .txParity => Sys2Proof.Machine.execTxParity s
  | .txStop => Sys2Proof.Machine.execTxStop s
  | .rxIdle => Sys2Proof.Machine.execRxIdle s
  | .rxSamplingCount => Sys2Proof.Machine.execRxSamplingCount s
  | .rxSamplingSample => Sys2Proof.Machine.execRxSamplingSample s
  | .rxStopCheckCount => Sys2Proof.Machine.execRxStopCheckCount s
  | .rxStopCheckHigh => Sys2Proof.Machine.execRxStopCheckHigh s
  | .rxDeliver => Sys2Proof.Machine.execRxDeliver s
  | .rxStopCheckLow => Sys2Proof.Machine.execRxStopCheckLow s
  | .rxFramingError => Sys2Proof.Machine.execRxFramingError s
  | .configure baud mode own => Sys2Proof.Machine.execConfigure baud mode own s
  | .send isAddress data => Sys2Proof.Machine.execSend isAddress data s
  | .sendAddress addr => Sys2Proof.Machine.execSendAddress addr s
  | .sendData data => Sys2Proof.Machine.execSendData data s
  | .receive => Sys2Proof.Machine.execReceive s

end Sys2Proof.Machine
end

