-- ==== Sys2Proof/Machine/Turn.lean ====
section
/-! DEFINITION. Who takes the next step (R13, R69, R303): the host held in a write, the script's next line, or, when
the script is at its end, the clock. And how a code is placed so that the next step runs it. -/

namespace Sys2Proof.Machine

/-- Run the operation a code of the script selects. -/
def fetched (c : Code) (s : State) : Result :=
  match decode c with
  | .ok i => exec i s
  | .error e => .fault (faultOf e)

/-- The line of a script a lull stands for. -/
def lullEvent : Lull → Event
  | .tick => .tick
  | .reset => .reset

/-- What falls between two polls of a blocking `receive`: what `gaps` lists next, which may be nothing (R299); where it
lists nothing for the place, one tick, so that the clock goes on (DESIGN CHOICE, log entry 9). -/
def betweenPolls (s : State) : List Event :=
  match s.gaps with
  | [] => [.tick]
  | g :: _ => g.map lullEvent

/-- A blocking `receive` polls once (R229): with an event to return it is over; else it polls again after what falls
between two polls. -/
def awaitFrame (s : State) (rest : List Event) : Result :=
  andThen (pollReceiver { s with script := rest }) fun t =>
    if t.result.valid || t.result.error then .next (reportResult t)
    else .next { t with script := betweenPolls t ++ Event.await :: t.script, gaps := t.gaps.tail }

/-- The step of a script whose host is not held (R111). At the script's end the clock goes on (R303). -/
def scriptTurn (s : State) : Result :=
  match s.script with
  | [] => tick s
  | .tick :: rest => tick { s with script := rest }
  | .reset :: rest => .next (resetStep { s with script := rest })
  | .access cmd :: rest => fetched (.host cmd) { s with script := rest }
  | .call c :: rest => fetched (.call c) { s with script := rest }
  | .await :: rest => awaitFrame s rest

/-- The step while the host is held in a write of `v` (R140). Reset may come at any time (R280). The write is taken up as
soon as `tx_full = 0`, before any other line of the script; until then the clock goes on and the host's lines wait, for it
makes no other access. -/
def heldTurn (v : Reg) (s : State) : Result :=
  match s.script with
  | .reset :: rest => .next (resetStep { s with script := rest })
  | .tick :: rest => if s.txFull then tick { s with script := rest } else exec (.wrTxdata v) s
  | .access _ :: _ | .call _ :: _ | .await :: _ | [] => if s.txFull then tick s else exec (.wrTxdata v) s

/-- One step of the machine: the held host's, or the script's. -/
def turn (s : State) : Result :=
  match s.held with
  | none => scriptTurn s
  | some v => heldTurn v s

/-- Place a code so that the very next step runs what it selects (log entry 1). A host access or a driver call goes to
the head of the script. An engine's code is its state register and what it splits on, and the next step is a tick. -/
def placeCode (s : State) (c : Code) : State :=
  match c with
  | .host cmd => { s with held := none, script := .access cmd :: s.script }
  | .call d => { s with held := none, script := .call d :: s.script }
  | .tx code =>
    { s with
      held := none, script := .tick :: s.script, en := true
      txState := txStateOf (code.extractLsb' 4 1), txIdx := code.extractLsb' 0 4 }
  | .rx state cnt level =>
    { s with
      held := none, script := .tick :: s.script, en := true
      rxState := rxStateOf state, rxCnt := cnt, line := level :: s.line }

/-- Place the code that `nbits` bits `w` of the opcode table stand for; nothing where they stand for none. -/
def placeTableWord (s : State) (nbits w : Nat) : State :=
  match tableCode nbits w with
  | some c => placeCode s c
  | none => s

end Sys2Proof.Machine
end

