-- ==== Sys2Proof/Machine/Step.lean ====
section
/-! DEFINITION. The step function, and the placing of an instruction where the next step finds it. -/

namespace Sys2Proof.Machine

/-- One step: a host access or driver operation of the script, one tick of the clock, or the reset step (R13). -/
def step (s : State) : Host.Outcome State Fault Refusal := turn s

/-- `s` with the instruction whose bits are `w`, as `opcode_table.json` numbers them, placed so that the very next step
runs it (log entry 1). -/
def State.withFetchWord (s : State) (nbits w : Nat) : State := placeTableWord s nbits w

end Sys2Proof.Machine
end

