-- ==== Sys2Proof/Machine/Wire.lean ====
section
/-! DEFINITION. Several instances on one clock: two with crossed lines, where each hears the level the other's `tx_out`
held before the tick (`20_memory.md` R73), and a multidrop line that every listener hears (R74). -/

namespace Sys2Proof.Machine

/-- Two instances; they share nothing but the wire (R15). Their draws and free levels are unrelated where their `ident`
differs (log entry 18). -/
structure Pair where
  a : State
  b : State
  deriving DecidableEq, Repr

/-- One tick of both: `rx_in_B(t) = tx_out_A(t-1)` and the same the other way (R73). It has no result where either
instance's tick has no next state. -/
def pairTick (p : Pair) : Option Pair :=
  match tickAt p.b.txOut p.a, tickAt p.a.txOut p.b with
  | .next a, .next b => some { a := a, b := b }
  | _, _ => none

/-- `n` ticks of both. -/
def pairTicks : Nat → Pair → Option Pair
  | 0, p => some p
  | n + 1, p => (pairTick p).bind (pairTicks n)

/-! ### A multidrop line (R74) -/

/-- An instance on a shared line: whether its `tx_out` is connected to the line, and whether its `rx_in` carries it. The
block has no output enable, so both are the system's (R74, R296; log entry 18). -/
structure Node where
  unit : State
  drives : Bool
  listens : Bool
  deriving DecidableEq, Repr

/-- The levels that are put on the line: those of the connected `tx_out`. -/
def drivenLevels (nodes : List Node) : List Bool := (nodes.filter (·.drives)).map (·.unit.txOut)

/-- Every instance makes its tick: a listener hears the line, any other has its own input. The first stop stops all. -/
def tickNodes (level : Bool) : List Node → Host.Outcome (List Node) Fault Refusal
  | [] => .next []
  | n :: rest =>
    match (if n.listens then tickAt level n.unit else tick n.unit) with
    | .fault e => .fault e
    | .refused e => .refused e
    | .next u =>
      match tickNodes level rest with
      | .fault e => .fault e
      | .refused e => .refused e
      | .next more => .next ({ n with unit := u } :: more)

/-- One tick of a multidrop line: every listener's `rx_in` carries the level that the one connected `tx_out` held before
the tick, and, with none connected, the level `outside` of the line environment. Two connected `tx_out` are refused
(R74, U21). -/
def busTick (outside : Bool) (nodes : List Node) : Host.Outcome (List Node) Fault Refusal :=
  match drivenLevels nodes with
  | [] => tickNodes outside nodes
  | [level] => tickNodes level nodes
  | _ :: _ :: _ => .refused .lineContention

end Sys2Proof.Machine
end

