-- ==== Sys2Proof/Safety.lean ====
section
/-! DEFINITION. What counts as a sound state, in the terms claims use: the invariants of `10_state.md` R33 with R149 and
R25, the fairness of the line (`20_memory.md` R79), and the levels that have been seen (`70_reset_and_hazards.md` R302). -/

namespace Sys2Proof.Machine

/-- `T_SHIFT` implies `tx_full = 1`, `EN = 1`, `tx_idx` 0 to 11, `1 <= tx_cnt <= TXDIV`, and the wire bit of the index
on the line; `T_IDLE` implies the line is high (R33). -/
abbrev State.TxSound (s : State) : Prop :=
  match s.txState with
  | .idle => s.txOut = true
  | .shift =>
    s.txFull = true ∧ s.en = true ∧ s.txIdx.toNat ≤ 11 ∧ 1 ≤ s.txCnt.toNat ∧ s.txCnt.toNat ≤ s.txDiv.toNat ∧
      s.txOut = wireBit s.txSlot s.txIdx

/-- `SAMPLING` implies `1 <= rx_bits <= 10` and `1 <= rx_cnt <= RXDIV + floor(RXDIV / 2)`; `STOP_CHECK` implies
`rx_bits = 0` and `1 <= rx_cnt <= RXDIV`; every state but `IDLE` implies `EN = 1` (R33). -/
abbrev State.RxSound (s : State) : Prop :=
  match s.rxState with
  | .idle => True
  | .sampling =>
    s.en = true ∧ 1 ≤ s.rxBits.toNat ∧ s.rxBits.toNat ≤ 10 ∧ 1 ≤ s.rxCnt.toNat ∧
      s.rxCnt.toNat ≤ s.rxDiv.toNat + s.rxDiv.toNat / 2
  | .stopCheck => s.en = true ∧ s.rxBits = 0#4 ∧ 1 ≤ s.rxCnt.toNat ∧ s.rxCnt.toNat ≤ s.rxDiv.toNat
  | .framingError => s.en = true

/-- `EN = 1` implies both divisors at least 2 (R33); `EN = 0` implies no word in the transmitter (R149) and `rx_prev = 0`
(R25). -/
abbrev State.EnSound (s : State) : Prop :=
  match s.en with
  | true => 2 ≤ s.txDiv.toNat ∧ 2 ≤ s.rxDiv.toNat
  | false => s.txFull = false ∧ s.rxPrev = false

/-- The invariants of R33, R149 and R25 together. -/
abbrev State.Sound (s : State) : Prop := s.TxSound ∧ s.RxSound ∧ s.EnSound

/-- The one assumption on the line environment, as a property of an input stream (R79): for every tick there is a tick at
or after it with the line high. No step assumes it; a claim that needs it has it as a premise, of a stream given or of
`Config.lineLevel` of an instance (log entry 26). -/
def ReturnsHigh (x : Nat → Bool) : Prop := ∀ t, ∃ u, t ≤ u ∧ x u = true

/-- The levels of `tx_out` that have been seen, one a tick, latest first (R302 (a)). -/
def levelsSeen (s : State) : List Bool :=
  s.trace.filterMap fun o =>
    match o with
    | .level x => some x
    | .read _ | .accepted | .held | .record _ => none

/-- `quiescent`: idle, nothing held, the input line high (R303). -/
abbrev State.Quiescent (s : State) : Prop := engineIdle s = true ∧ s.held = none ∧ s.rxIn = true

end Sys2Proof.Machine
end

