-- ==== Sys2Proof/Certificates/Slice0/Obligations.lean ====
section
/-! DEFINITION. The statements for the provers, from the numbered rules of `spec/`. A conclusion `exec i s = .next { s
with … }` says the effect and the frame together: every field not named keeps its value. The field `trace` grows
by what is observed of the access (R302; log entry 27). -/

open Sys2Proof Sys2Proof.Machine

/-! ### Codes and words -/

/-- R103, R104, R105: decoding the code of any well-formed operation gives it back; `RX.DELIVER` alone has no code of
its own and carries that of `RX.STOP_CHECK.high` (R177). -/
def Obligations.DecodeOfEncodeIsTheOperation : Prop :=
  (∀ i : Instr, WellFormed i = true → i ≠ .rxDeliver → Sys2Proof.decode (Sys2Proof.encode i) = .ok i) ∧
  Sys2Proof.decode (Sys2Proof.encode .rxDeliver) = .ok .rxStopCheckHigh

/-- R103: the sixteen HOSTOP codes `we ‖ reg[2:0]`, above the 16 bits written. -/
def Obligations.HostCommandWordsDecode : Prop :=
  ∀ v : BitVec 16,
    decodeHost 0x00000#20 = .rdTxdata ∧ decodeHost 0x10000#20 = .rdRxdata ∧ decodeHost 0x20000#20 = .rdStatus ∧
    decodeHost 0x30000#20 = .rdCtrl ∧ decodeHost 0x40000#20 = .rdTxdiv ∧ decodeHost 0x50000#20 = .rdRxdiv ∧
    decodeHost 0x60000#20 = .rdRsvd6 ∧ decodeHost 0x70000#20 = .rdRsvd7 ∧
    decodeHost (0b1000#4 ++ v) = .wrTxdata v ∧ decodeHost (0b1001#4 ++ v) = .wrRxdata v ∧
    decodeHost (0b1010#4 ++ v) = .wrStatus v ∧ decodeHost (0b1011#4 ++ v) = .wrCtrl v ∧
    decodeHost (0b1100#4 ++ v) = .wrTxdiv v ∧ decodeHost (0b1101#4 ++ v) = .wrRxdiv v ∧
    decodeHost (0b1110#4 ++ v) = .wrRsvd6 v ∧ decodeHost (0b1111#4 ++ v) = .wrRsvd7 v

/-- R104, R105: what the engines' codes select. That the codes R104 calls unreachable select nothing is the model's choice
(log entry 10). -/
def Obligations.EngineCodesDecode : Prop :=
  (∀ x : BitVec 4, decodeTx (0#1 ++ x) = .ok .txIdle) ∧
  decodeTx 0b10000#5 = .ok .txStart ∧
  (∀ i : BitVec 4, 1 ≤ i.toNat → i.toNat ≤ 9 → decodeTx (1#1 ++ i) = .ok (.txData i)) ∧
  decodeTx 0b11010#5 = .ok .txParity ∧ decodeTx 0b11011#5 = .ok .txStop ∧
  (∀ i : BitVec 4, 12 ≤ i.toNat → decodeTx (1#1 ++ i) = .error .txCodeUnreachable) ∧
  (∀ (cnt : BitVec 17) (x : Bool),
    decodeRx 0b00#2 cnt x = .ok .rxIdle ∧ decodeRx 0b11#2 cnt x = .ok .rxFramingError ∧
    (1 < cnt.toNat → decodeRx 0b01#2 cnt x = .ok .rxSamplingCount ∧ decodeRx 0b10#2 cnt x = .ok .rxStopCheckCount) ∧
    (cnt = 1#17 → decodeRx 0b01#2 cnt x = .ok .rxSamplingSample ∧
      (x = true → decodeRx 0b10#2 cnt x = .ok .rxStopCheckHigh) ∧
      (x = false → decodeRx 0b10#2 cnt x = .ok .rxStopCheckLow)))

/-- Six words written out bit by bit from the encodings of R103, R104 and R105, one or more for each format. -/
def Obligations.SampleWordsDecode : Prop :=
  decodeTableWord 24 0b10000000000000001011 = some (.wrTxdata 0x000B#16) ∧
  decodeTableWord 24 0b00100000000000000000 = some .rdStatus ∧
  decodeTableWord 24 0b11000000000111110100 = some (.wrTxdiv 500#16) ∧
  decodeTableWord 5 0b11001 = some (.txData 9#4) ∧
  decodeTableWord 5 0b11011 = some .txStop ∧
  decodeTableWord 2 0b11 = some .rxFramingError

/-- R97, R98, R92: each bit of the frame word: the flag in bit 0, the data byte in bits 8:1, the parity bit in bit 9,
zeros above. R92 marks the place of the parity bit as the spec's own choice. -/
def Obligations.FrameWordLayout : Prop :=
  ∀ (a : Bool) (d : BitVec 8) (p : Bool),
    let w := frameWordOf (payloadOf a d) p
    w.getLsbD 0 = a ∧ (∀ k < 8, w.getLsbD (k + 1) = d.getLsbD k) ∧ w.getLsbD 9 = p ∧ ∀ k, 10 ≤ k → w.getLsbD k = false

/-- R99: the wire frame is `(1 << 11) | (zext_12(W) << 1)`, sent from bit 0 on, and its bits are the three cases of
`wire_bit`. -/
def Obligations.WireBitIsTheWireFrame : Prop :=
  ∀ (w : BitVec 10) (i : BitVec 4), i.toNat ≤ 11 →
    wireBit w i = ((1#12 <<< 11) ||| (w.setWidth 12 <<< 1)).getLsbD i.toNat ∧
    (i.toNat = 0 → wireBit w i = false) ∧
    (1 ≤ i.toNat → i.toNat ≤ 10 → wireBit w i = w.getLsbD (i.toNat - 1)) ∧
    (i.toNat = 11 → wireBit w i = true)

/-- R210, R211: parity is `base ^ xor_reduce(P[8:0])` with base 1 for ODD and 0 for EVEN, so the ten bits hold an odd
number of ones with ODD and an even number with EVEN; the two are always complementary. R216: with NONE the bit is 0,
and no raw frame is a parity error. -/
def Obligations.ParityMakesTheCountOddOrEven : Prop :=
  ∀ p : BitVec 9,
    let ones := ((List.range 9).map fun k => (p.getLsbD k).toNat).sum
    let x := p.getLsbD 0 ^^ p.getLsbD 1 ^^ p.getLsbD 2 ^^ p.getLsbD 3 ^^ p.getLsbD 4 ^^ p.getLsbD 5 ^^ p.getLsbD 6 ^^
      p.getLsbD 7 ^^ p.getLsbD 8
    parityBit .odd p = (true ^^ x) ∧ parityBit .even p = (false ^^ x) ∧
    (ones + (parityBit .odd p).toNat) % 2 = 1 ∧ (ones + (parityBit .even p).toNat) % 2 = 0 ∧
    parityBit .odd p = !parityBit .even p ∧
    parityBit .noParity p = false ∧ ∀ w : BitVec 16, decodeFrame .noParity w = some (frameOf (rawPayload w))

/-- The round trip of the two codecs (R212, R213, R216), in every parity mode, for every flag and every data argument,
masked to a byte (R232). -/
def Obligations.DriverDecodesWhatItEncodes : Prop :=
  ∀ (mode : ParityMode) (a : Bool) (n : Nat),
    decodeFrame mode (encodeFrame mode a n) = some { isAddress := a, data := BitVec.ofNat 8 (n % 256) }

/-- R232: the word the driver builds is in 0..1023, so `WR TXDATA` never refuses it as malformed. -/
def Obligations.DriverWordsAreNeverMalformed : Prop :=
  ∀ (mode : ParityMode) (a : Bool) (n : Nat),
    (encodeFrame mode a n).toNat < 1024 ∧ txWordOk (encodeFrame mode a n) = true ∧
    encodeFrame mode a n = encodeFrame mode a (n % 256)

/-! ### Host accesses -/

/-- R130, R132, R238: the reads of `TXDIV`, `RXDIV` and `CTRL` return the register and change nothing else. -/
def Obligations.ControlReadsReturnTheRegister : Prop :=
  ∀ s : State,
    exec .rdTxdiv s = .next { s with readValue := s.txDiv, trace := .read s.txDiv :: s.trace } ∧
    exec .rdRxdiv s = .next { s with readValue := s.rxDiv, trace := .read s.rxDiv :: s.trace } ∧
    ∃ w : BitVec 16, exec .rdCtrl s = .next { s with readValue := w, trace := .read w :: s.trace } ∧
      w = if s.en then 0x0001#16 else 0x0000#16

/-- R236: `RD STATUS` returns `TX_FULL`, `RX_VALID`, `RX_FERR` and `RX_BUSY` in bits 0 to 3, zeros above, and has no
side effect. -/
def Obligations.StatusReadGivesTheFlags : Prop :=
  ∀ s : State, ∃ w : BitVec 16,
    exec .rdStatus s = .next { s with readValue := w, trace := .read w :: s.trace } ∧
    w.getLsbD 0 = s.txFull ∧ w.getLsbD 1 = s.rxValid ∧ w.getLsbD 2 = s.rxFerr ∧
    w.getLsbD 3 = decide (s.rxState ≠ .idle) ∧ ∀ k, 4 ≤ k → w.getLsbD k = false

/-- R186: a read of `RXDATA` with `rx_valid = 1` returns the slot, zero-extended, and clears `rx_valid`, and the slot
keeps its bits; with `rx_valid = 0` it returns `any(16)` and changes nothing of the machine. The second clause holds for
every value of the draw (log entry 4), which only counts up. -/
def Obligations.RxdataReadPopsTheSlot : Prop :=
  ∀ s : State,
    (s.rxValid = true → exec .rdRxdata s = .next { s with
      readValue := s.rxSlot.setWidth 16, rxValid := false, trace := .read (s.rxSlot.setWidth 16) :: s.trace }) ∧
    (s.rxValid = false → ∃ v : BitVec 16,
      exec .rdRxdata s = .next { s with readValue := v, draws := s.draws + 1, trace := .read v :: s.trace })

/-- R129, R131: a divisor write stores the value with `EN = 0` and is refused with `EN = 1`. -/
def Obligations.DivisorWritesNeedDisable : Prop :=
  ∀ (s : State) (v : BitVec 16),
    (s.en = false → exec (.wrTxdiv v) s = .next { s with txDiv := v, trace := .accepted :: s.trace } ∧
      exec (.wrRxdiv v) s = .next { s with rxDiv := v, trace := .accepted :: s.trace }) ∧
    (s.en = true → exec (.wrTxdiv v) s = .refused .configChangeWhileEnabled ∧
      exec (.wrRxdiv v) s = .refused .configChangeWhileEnabled)

/-- R237: `WR STATUS` is refused with any of bits 15:4 set; else bit 2 clears `rx_ferr` and nothing else happens. -/
def Obligations.StatusWriteClearsTheFramingFlag : Prop :=
  ∀ (s : State) (v : BitVec 16),
    (v.toNat < 16 → v.getLsbD 2 = true →
      exec (.wrStatus v) s = .next { s with rxFerr := false, trace := .accepted :: s.trace }) ∧
    (v.toNat < 16 → v.getLsbD 2 = false → exec (.wrStatus v) s = .next { s with trace := .accepted :: s.trace }) ∧
    (16 ≤ v.toNat → exec (.wrStatus v) s = .refused .reservedBitsWritten)

/-- R239: `WR CTRL`. Clearing `EN` changes nothing but `EN` and, by log entry 7, `rx_prev`, about which this statement
says nothing. -/
def Obligations.CtrlWriteEnablesAndDisables : Prop :=
  ∀ (s : State) (v : BitVec 16),
    (2 ≤ v.toNat → exec (.wrCtrl v) s = .refused .reservedBitsWritten) ∧
    (v = 1#16 → s.en = false → s.txDiv.toNat < 2 ∨ s.rxDiv.toNat < 2 →
      exec (.wrCtrl v) s = .refused .enableWithIllegalDivisor) ∧
    (v = 1#16 → s.en = false → 2 ≤ s.txDiv.toNat → 2 ≤ s.rxDiv.toNat →
      exec (.wrCtrl v) s = .next { s with en := true, trace := .accepted :: s.trace }) ∧
    (v = 0#16 → s.en = true → s.txFull = true ∨ s.rxState ≠ .idle →
      exec (.wrCtrl v) s = .refused .configChangeInFlight) ∧
    (v = 0#16 → s.en = true → s.txFull = false → s.rxState = .idle →
      ∃ prev, exec (.wrCtrl v) s = .next { s with en := false, rxPrev := prev, trace := .accepted :: s.trace }) ∧
    (v = 0#16 → s.en = false → exec (.wrCtrl v) s = .next { s with trace := .accepted :: s.trace }) ∧
    (v = 1#16 → s.en = true → exec (.wrCtrl v) s = .next { s with trace := .accepted :: s.trace })

/-- R140: `WR TXDATA`: refused with `EN = 0`, then refused with any of bits 15:10 set, then held while `tx_full = 1`,
and else the word is in the slot with `tx_full = 1`. The clauses on `step` say how the model carries the hold (its choices,
log entries 1 and 5): while held the clock goes on and the host's lines of the script wait; as soon as `tx_full = 0` the
held write is made, before any other line but the reset step. -/
def Obligations.TxdataWriteFillsHoldsOrIsRefused : Prop :=
  ∀ (s : State) (v : BitVec 16),
    (s.en = false → exec (.wrTxdata v) s = .refused .txWriteWhileDisabled) ∧
    (s.en = true → 1024 ≤ v.toNat → exec (.wrTxdata v) s = .refused .malformedTxWord) ∧
    (s.en = true → v.toNat < 1024 → s.txFull = true → exec (.wrTxdata v) s = .next { s with
      held := some v, trace := .held :: s.trace }) ∧
    (s.en = true → v.toNat < 1024 → s.txFull = false →
      exec (.wrTxdata v) s = .next { s with
        txSlot := v.setWidth 10, txFull := true, held := none, trace := .accepted :: s.trace }) ∧
    (s.held = some v → s.txFull = false → s.script.head? ≠ some .reset → step s = exec (.wrTxdata v) s) ∧
    (s.held = some v → s.txFull = true → s.script.head? ≠ some .tick → s.script.head? ≠ some .reset →
      step s = tick s) ∧
    (s.held = some v → s.txFull = true → ∀ rest, s.script = .tick :: rest → step s = tick { s with script := rest })

/-- R141, R187, R242, R243: the six accesses that are no operations are refused in every state, for every value. -/
def Obligations.AbsentAccessesAreRefused : Prop :=
  ∀ (s : State) (v : BitVec 16),
    exec .rdTxdata s = .refused .readOfWriteOnlyRegister ∧
    exec (.wrRxdata v) s = .refused .writeOfReadOnlyRegister ∧
    exec .rdRsvd6 s = .refused .reservedRegister ∧ exec .rdRsvd7 s = .refused .reservedRegister ∧
    exec (.wrRsvd6 v) s = .refused .reservedRegister ∧ exec (.wrRsvd7 v) s = .refused .reservedRegister

/-- R65: the accesses the table calls idempotent: done twice in a row they leave the state of once and return the same
value; the second is observed as the first was. -/
def Obligations.IdempotentAccesses : Prop :=
  ∀ (i : Instr) (s t : State), exec i s = .next t →
    (i = .rdStatus ∨ i = .rdCtrl ∨ i = .rdTxdiv ∨ i = .rdRxdiv ∨
      ∃ v, i = .wrStatus v ∨ i = .wrCtrl v ∨ i = .wrTxdiv v ∨ i = .wrRxdiv v) →
    ∃ o, t.trace = o :: s.trace ∧ exec i t = .next { t with trace := o :: t.trace }

/-- R189: no host access changes the receiver's state, counters or frame, nor what the transmitter is sending; only a
write of `TXDATA` touches its slot. `rx_prev` is left out: log entry 7. -/
def Obligations.HostAccessesLeaveTheEngines : Prop :=
  ∀ (cmd : BitVec 20) (s t : State), exec (decodeHost cmd) s = .next t →
    t.rxState = s.rxState ∧ t.rxCnt = s.rxCnt ∧ t.rxBits = s.rxBits ∧ t.rxShift = s.rxShift ∧
    t.rxSlot = s.rxSlot ∧ t.txState = s.txState ∧ t.txIdx = s.txIdx ∧ t.txCnt = s.txCnt ∧ t.txOut = s.txOut ∧
    t.driver = s.driver ∧ (t.txSlot ≠ s.txSlot → ∃ v, decodeHost cmd = .wrTxdata v)

/-! ### The transmit engine -/

/-- R143: `TX.IDLE` starts the frame that waits, and else changes nothing. -/
def Obligations.TxIdleStartsTheFrame : Prop :=
  ∀ s : State, s.en = true → s.txState = .idle →
    (s.txFull = true →
      exec .txIdle s = .next { s with txState := .shift, txIdx := 0#4, txCnt := s.txDiv, txOut := false }) ∧
    (s.txFull = false → exec .txIdle s = .next s)

/-- R145: `TX.START` holds the start bit, then puts `tx_slot[0]` on the line. -/
def Obligations.TxStartSendsTheFlag : Prop :=
  ∀ s : State, s.en = true → s.txState = .shift → s.txIdx = 0#4 →
    (1 < s.txCnt.toNat → exec .txStart s = .next { s with txCnt := s.txCnt - 1#16 }) ∧
    (s.txCnt.toNat ≤ 1 →
      exec .txStart s = .next { s with txIdx := 1#4, txOut := s.txSlot.getLsbD 0, txCnt := s.txDiv })

/-- R146: `TX.DATA` holds a data bit, then puts `tx_slot[tx_idx]` on the line. -/
def Obligations.TxDataSendsTheNextBit : Prop :=
  ∀ (s : State) (i : BitVec 4), s.en = true → s.txState = .shift → s.txIdx = i → 1 ≤ i.toNat → i.toNat ≤ 9 →
    (1 < s.txCnt.toNat → exec (.txData i) s = .next { s with txCnt := s.txCnt - 1#16 }) ∧
    (s.txCnt.toNat ≤ 1 →
      exec (.txData i) s =
        .next { s with txOut := s.txSlot.getLsbD i.toNat, txIdx := i + 1#4, txCnt := s.txDiv })

/-- R147: `TX.PARITY` holds the parity bit, then puts the stop bit on the line. -/
def Obligations.TxParitySendsTheStopBit : Prop :=
  ∀ s : State, s.en = true → s.txState = .shift → s.txIdx = 10#4 →
    (1 < s.txCnt.toNat → exec .txParity s = .next { s with txCnt := s.txCnt - 1#16 }) ∧
    (s.txCnt.toNat ≤ 1 → exec .txParity s = .next { s with txIdx := 11#4, txOut := true, txCnt := s.txDiv })

/-- R148: `TX.STOP` holds the stop bit, then ends the frame and frees the buffer. -/
def Obligations.TxStopFreesTheBuffer : Prop :=
  ∀ s : State, s.en = true → s.txState = .shift → s.txIdx = 11#4 →
    (1 < s.txCnt.toNat → exec .txStop s = .next { s with txCnt := s.txCnt - 1#16 }) ∧
    (s.txCnt.toNat ≤ 1 → exec .txStop s = .next { s with txState := .idle, txFull := false })

/-! ### The receive engine -/

/-- R172 with R171: a falling edge starts a frame; anything else only moves `rx_prev` on. -/
def Obligations.RxIdleFindsTheFallingEdge : Prop :=
  ∀ s : State, s.en = true → s.rxState = .idle →
    (s.rxPrev = true → s.rxIn = false →
      exec .rxIdle s = .next { s with
        rxState := .sampling, rxCnt := BitVec.ofNat 17 (s.rxDiv.toNat + s.rxDiv.toNat / 2), rxBits := 10#4,
        rxShift := 0#10, rxPrev := false }) ∧
    ((s.rxPrev = false ∨ s.rxIn = true) → exec .rxIdle s = .next { s with rxPrev := s.rxIn })

/-- R173, R175: with `rx_cnt > 1` the two waiting transitions count down and do nothing else but move `rx_prev` on. -/
def Obligations.RxCountsOnly : Prop :=
  ∀ s : State, s.en = true → 1 < s.rxCnt.toNat →
    (s.rxState = .sampling →
      exec .rxSamplingCount s = .next { s with rxCnt := s.rxCnt - 1#17, rxPrev := s.rxIn }) ∧
    (s.rxState = .stopCheck →
      exec .rxStopCheckCount s = .next { s with rxCnt := s.rxCnt - 1#17, rxPrev := s.rxIn })

/-- R174: one sample enters at bit 9, the rest move down one place, and the tenth leads to `STOP_CHECK`. -/
def Obligations.RxSampleShiftsIn : Prop :=
  ∀ s : State, s.en = true → s.rxState = .sampling → s.rxCnt = 1#17 →
    ∃ w : BitVec 10,
      exec .rxSamplingSample s = .next { s with
        rxShift := w, rxBits := s.rxBits - 1#4, rxCnt := s.rxDiv.setWidth 17,
        rxState := if s.rxBits = 1#4 then .stopCheck else .sampling, rxPrev := s.rxIn } ∧
      w.getLsbD 9 = s.rxIn ∧ ∀ k < 9, w.getLsbD k = s.rxShift.getLsbD (k + 1)

/-- R176 with R177: a high stop bit delivers the frame, whatever `rx_valid` was, and the engine is idle again. -/
def Obligations.RxHighStopBitDelivers : Prop :=
  ∀ s : State, s.en = true → s.rxState = .stopCheck → s.rxCnt = 1#17 → s.rxIn = true →
    exec .rxStopCheckHigh s =
      .next { s with rxSlot := s.rxShift, rxValid := true, rxState := .idle, rxPrev := true } ∧
    exec .rxDeliver s = .next { s with rxSlot := s.rxShift, rxValid := true }

/-- R179: a low stop bit sets the sticky flag and leads to `FRAMING_ERROR`; the slot is not disturbed. -/
def Obligations.RxLowStopBitIsAFramingError : Prop :=
  ∀ s : State, s.en = true → s.rxState = .stopCheck → s.rxCnt = 1#17 → s.rxIn = false →
    exec .rxStopCheckLow s = .next { s with rxFerr := true, rxState := .framingError, rxPrev := false }

/-- R180: the first high sample ends the wait, and nothing else does. -/
def Obligations.RxFramingErrorWaitsForHigh : Prop :=
  ∀ s : State, s.en = true → s.rxState = .framingError →
    (s.rxIn = true → exec .rxFramingError s = .next { s with rxState := .idle, rxPrev := true }) ∧
    (s.rxIn = false → exec .rxFramingError s = .next { s with rxPrev := false })

/-! ### Frames of the engines -/

/-- R14: what each engine's transitions write. A transmit transition writes only `tx_full`, `tx_state`, `tx_idx`,
`tx_cnt`, `tx_out`; a receive transition only `rx_state`, `rx_prev`, `rx_cnt`, `rx_bits`, `rx_shift`, `rx_slot`,
`rx_valid`, `rx_ferr`. -/
def Obligations.EnginesWriteOnlyTheirOwn : Prop :=
  ∀ (i : Instr) (s t : State), exec i s = .next t →
    ((i = .txIdle ∨ i = .txStart ∨ (∃ k, i = .txData k) ∨ i = .txParity ∨ i = .txStop) →
      t = { s with
        txFull := t.txFull, txState := t.txState, txIdx := t.txIdx, txCnt := t.txCnt, txOut := t.txOut }) ∧
    ((i = .rxIdle ∨ i = .rxSamplingCount ∨ i = .rxSamplingSample ∨ i = .rxStopCheckCount ∨ i = .rxStopCheckHigh ∨
        i = .rxDeliver ∨ i = .rxStopCheckLow ∨ i = .rxFramingError) →
      t = { s with
        rxState := t.rxState, rxPrev := t.rxPrev, rxCnt := t.rxCnt, rxBits := t.rxBits, rxShift := t.rxShift,
        rxSlot := t.rxSlot, rxValid := t.rxValid, rxFerr := t.rxFerr })

/-- R14: the engines share no mutable state. Two states that agree on `EN` and on the transmitter's registers agree on
them after the transmitter's transition, whatever the receiver, the line and the driver hold; and the same for the
receiver, whatever the transmitter and the driver hold. -/
def Obligations.EnginesAreBlindToEachOther : Prop :=
  (∀ (a b a' : State),
    b.en = a.en → b.txDiv = a.txDiv → b.txSlot = a.txSlot → b.txFull = a.txFull → b.txState = a.txState →
    b.txIdx = a.txIdx → b.txCnt = a.txCnt → b.txOut = a.txOut → txTick a = .next a' →
    ∃ b', txTick b = .next b' ∧ b'.txFull = a'.txFull ∧ b'.txState = a'.txState ∧ b'.txIdx = a'.txIdx ∧
      b'.txCnt = a'.txCnt ∧ b'.txOut = a'.txOut) ∧
  (∀ (a b a' : State),
    b.en = a.en → b.rxDiv = a.rxDiv → b.rxIn = a.rxIn → b.rxState = a.rxState → b.rxPrev = a.rxPrev →
    b.rxCnt = a.rxCnt → b.rxBits = a.rxBits → b.rxShift = a.rxShift → b.rxSlot = a.rxSlot → b.rxValid = a.rxValid →
    b.rxFerr = a.rxFerr → rxTick a = .next a' →
    ∃ b', rxTick b = .next b' ∧ b'.rxState = a'.rxState ∧ b'.rxPrev = a'.rxPrev ∧ b'.rxCnt = a'.rxCnt ∧
      b'.rxBits = a'.rxBits ∧ b'.rxShift = a'.rxShift ∧ b'.rxSlot = a'.rxSlot ∧ b'.rxValid = a'.rxValid ∧
      b'.rxFerr = a'.rxFerr)

/-! ### Steps -/

/-- A step runs the operation the script's next line decodes to (log entry 1): a host access by its command word, a
driver call by its name, each on the state with that line taken off the script. -/
def Obligations.StepRunsTheDecodedOperation : Prop :=
  ∀ (s : State) (rest : List Event) (i : Instr), s.held = none →
    (∀ cmd, s.script = .access cmd :: rest → Sys2Proof.decode (.host cmd) = .ok i →
      step s = exec i { s with script := rest }) ∧
    (∀ c, s.script = .call c :: rest → Sys2Proof.decode (.call c) = .ok i →
      step s = exec i { s with script := rest })

/-- A step whose line is a tick, or whose script is at its end (log entry 1), is one tick; and a tick with `EN = 1` is the
transition the transmitter's code selects and then the one the receiver's code selects (R13, R104, R105; the order of the
two, which cannot be observed, is log entry 25), after which the level of `tx_out` is seen. -/
def Obligations.StepTicksBothEngines : Prop :=
  (∀ (s : State) (rest : List Event), s.held = none → s.script = .tick :: rest →
    step s = tick { s with script := rest }) ∧
  (∀ s : State, s.held = none → s.script = [] → step s = tick s) ∧
  (∀ (s s0 u : State) (i j : Instr), s.en = true →
    s0 = { s with rxIn := nextLevel s, line := s.line.tail, ticks := s.ticks + 1 } →
    Sys2Proof.decode (.tx (txCode s0)) = .ok i → exec i s0 = .next u →
    Sys2Proof.decode (.rx (rxStateCode u.rxState) u.rxCnt u.rxIn) = .ok j →
    tick s = andThen (exec j u) fun t => .next { t with trace := .level t.txOut :: t.trace })

/-- R149, R182: with `EN = 0` neither engine makes a transition and `rx_prev <- 0`. -/
def Obligations.DisabledTickOnlyClearsPrev : Prop :=
  ∀ s : State, s.en = false →
    tick s = .next { s with
      rxPrev := false, rxIn := nextLevel s, line := s.line.tail, ticks := s.ticks + 1,
      trace := .level s.txOut :: s.trace }

/-- R280: the reset step writes every hardware register at once; the seven it leaves unspecified take free values, and
nothing else changes: that a held write stays held is log entry 6, that the surroundings stay is log entry 22. After it
the four readable registers read 0. It holds whatever the draws are (log entry 4). -/
def Obligations.ResetStepSetsEveryRegister : Prop :=
  ∀ (s : State) (rest : List Event), s.script = .reset :: rest →
    ∃ slot idx cnt rcnt rbits rshift rslot t,
      t = { s with
        en := false, txDiv := 0#16, rxDiv := 0#16, txFull := false, txState := .idle, txOut := true,
        rxState := .idle, rxPrev := false, rxValid := false, rxFerr := false,
        txSlot := slot, txIdx := idx, txCnt := cnt, rxCnt := rcnt, rxBits := rbits, rxShift := rshift, rxSlot := rslot,
        script := rest, draws := s.draws + 7 } ∧
      step s = .next t ∧
      ∀ i, (i = .rdStatus ∨ i = .rdCtrl ∨ i = .rdTxdiv ∨ i = .rdRxdiv) →
        exec i t = .next { t with readValue := 0#16, trace := .read 0#16 :: t.trace }

/-- R229: one poll of a blocking `receive`: where the poll makes an event the call is over, as the polling form would be;
else it polls again after what `gaps` lists, which may be nothing (R299). The one tick where `gaps` lists nothing for the
place is the model's choice (log entry 9). -/
def Obligations.BlockingReceivePollsAgain : Prop :=
  ∀ (s t : State) (rest : List Event), s.held = none → s.script = .await :: rest →
    pollReceiver { s with script := rest } = .next t →
    ((t.result.valid = true ∨ t.result.error = true) →
      step s = .next { t with trace := .record t.result :: t.trace } ∧ step s = exec .receive { s with script := rest }) ∧
    (t.result.valid = false → t.result.error = false →
      (t.gaps = [] → step s = .next { t with script := .tick :: .await :: t.script }) ∧
      (∀ g more, t.gaps = g :: more →
        step s = .next { t with script := g.map lullEvent ++ .await :: t.script, gaps := more }))

/-- R73, R74: the level a receiver hears at a tick is the level the line had before that tick: across the wire of two
instances, in a loopback, and on a multidrop line, where every listener hears the one connected `tx_out`, or with none
connected the environment; two connected `tx_out` are refused (U21). -/
def Obligations.WireDelaysOneTick : Prop :=
  (∀ p q : Pair, pairTick p = some q →
    q.b.rxIn = p.a.txOut ∧ q.a.rxIn = p.b.txOut ∧
    (p.b.en = true → q.b.rxPrev = p.a.txOut) ∧ (p.a.en = true → q.a.rxPrev = p.b.txOut)) ∧
  (∀ s t : State, s.wiring = .loopback → s.line = [] → tick s = .next t →
    t.rxIn = s.txOut ∧ (s.en = true → t.rxPrev = s.txOut)) ∧
  (∀ (x level : Bool) (b b' : List Node) (j : Nat) (n : Node), busTick x b = .next b' →
    b[j]? = some n → n.listens = true →
    ((∃ d ∈ b, d.drives = true ∧ level = d.unit.txOut) ∨ ((∀ d ∈ b, d.drives = false) ∧ level = x)) →
    ∃ n', b'[j]? = some n' ∧ n'.unit.rxIn = level ∧ (n.unit.en = true → n'.unit.rxPrev = level)) ∧
  (∀ (x : Bool) (b : List Node) (k j : Nat) (d e : Node), k ≠ j → b[k]? = some d → b[j]? = some e →
    d.drives = true → e.drives = true → busTick x b = .refused .lineContention)

/-! ### The driver -/

/-- R218 with no ticks between the accesses: good arguments, and an instance disabled or idle. Both divisors take
`floor(CLOCK_HZ / baud)`, a stale frame and a stale error are dropped, the block is enabled, the driver is new (R215). -/
def Obligations.ConfigureInitialisesTheInstance : Prop :=
  ∀ (s : State) (baud : Nat) (code : BitVec 2) (own : BitVec 8) (mode : ParityMode),
    (code = 0#2 ∧ mode = .noParity ∨ code = 1#2 ∧ mode = .odd ∨ code = 2#2 ∧ mode = .even) →
    baud ≠ 0 → 2 ≤ s.clockHz / baud → s.clockHz / baud ≤ 65535 → s.gaps = [] →
    (s.en = false ∨ (s.txFull = false ∧ s.rxState = .idle)) →
    ∃ prev value seen, exec (.configure baud code own) s = .next { s with
      en := true, txDiv := BitVec.ofNat 16 (s.clockHz / baud), rxDiv := BitVec.ofNat 16 (s.clockHz / baud),
      rxValid := false, rxFerr := false, rxPrev := prev, readValue := value, trace := seen ++ s.trace,
      driver := some {
        parityMode := mode, ownAddress := own, listening := false, lastFrame := none, lastError := false,
        cpb := BitVec.ofNat 16 (s.clockHz / baud) } }

/-- R218: `configure` with ticks between its accesses (R66), on an instance that is disabled, ends in the same registers
and the same driver. -/
def Obligations.ConfigureCompletesUnderTicks : Prop :=
  ∀ (s : State) (baud : Nat) (code : BitVec 2) (own : BitVec 8) (mode : ParityMode),
    parityModeOf code = some mode → baud ≠ 0 → 2 ≤ s.clockHz / baud → s.clockHz / baud ≤ 65535 → s.en = false →
    (∀ g ∈ s.gaps, Lull.reset ∉ g) →
    ∃ t, exec (.configure baud code own) s = .next t ∧ t.en = true ∧
      t.txDiv.toNat = s.clockHz / baud ∧ t.rxDiv.toNat = s.clockHz / baud ∧ t.rxValid = false ∧ t.rxFerr = false ∧
      t.driver = some (freshDriver mode own (BitVec.ofNat 16 (s.clockHz / baud))) ∧
      t.txOut = s.txOut ∧ t.rxState = s.rxState ∧ t.txFull = s.txFull

/-- R218, R254: what `configure` refuses: code 3, `baud = 0`, a quotient outside 2..65535, and an enabled instance with
a frame in flight. -/
def Obligations.ConfigureRefusesBadArguments : Prop :=
  ∀ (s : State) (baud : Nat) (code : BitVec 2) (own : BitVec 8),
    (code = 3#2 ∨ baud = 0 → exec (.configure baud code own) s = .refused .badConfigureArgument) ∧
    (code ≠ 3#2 → baud ≠ 0 → (s.clockHz / baud < 2 ∨ 65535 < s.clockHz / baud) →
      exec (.configure baud code own) s = .refused .baudOutOfRange) ∧
    (code ≠ 3#2 → baud ≠ 0 → 2 ≤ s.clockHz / baud → s.clockHz / baud ≤ 65535 → s.gaps = [] → s.en = true →
      (s.txFull = true ∨ s.rxState ≠ .idle) → exec (.configure baud code own) s = .refused .configChangeInFlight)

/-- R219, R220, R221: the three sends write one word: the flag, the data masked to a byte, and the mode's parity bit over
both (R97, R98, R210, R216, R232); the write fills the buffer, or is held while it is full. -/
def Obligations.SendsWriteOneWord : Prop :=
  ∀ (s : State) (d : Driver) (a : Bool) (n : Nat), s.driver = some d → s.en = true →
    let payload := fun flag => payloadOf flag (BitVec.ofNat 8 n)
    let word := fun flag => frameWordOf (payload flag) (parityBit d.parityMode (payload flag))
    let filled := fun flag =>
      { s with txSlot := (word flag).setWidth 10, txFull := true, held := none, trace := .accepted :: s.trace }
    let waiting := fun flag => { s with held := some (word flag), trace := .held :: s.trace }
    (s.txFull = false →
      exec (.send a n) s = .next (filled a) ∧ exec (.sendAddress n) s = .next (filled true) ∧
      exec (.sendData n) s = .next (filled false)) ∧
    (s.txFull = true →
      exec (.send a n) s = .next (waiting a) ∧ exec (.sendAddress n) s = .next (waiting true) ∧
      exec (.sendData n) s = .next (waiting false)) ∧
    exec (.sendAddress n) s = exec (.send true n) s ∧ exec (.sendData n) s = exec (.send false n) s

/-- R215: before the first `configure` there is no driver, and every other driver operation is refused. -/
def Obligations.CallsBeforeConfigureAreRefused : Prop :=
  ∀ (s : State) (a : Bool) (n : Nat), s.driver = none →
    exec (.send a n) s = .refused .notConfigured ∧ exec (.sendAddress n) s = .refused .notConfigured ∧
    exec (.sendData n) s = .refused .notConfigured ∧ exec .receive s = .refused .notConfigured

/-- R222, R226: a latched framing error is cleared, recorded and returned before any waiting frame, whatever falls between
the two accesses (`r` is the state after the read of `STATUS`, `u` the one what falls then leaves); with neither flag set
the call returns nothing (R222). That the flag is cleared before a frame is looked for is what R226 calls the spec's own
choice. -/
def Obligations.ReceiveReportsTheFramingErrorFirst : Prop :=
  ∀ (s r : State) (d : Driver), s.driver = some d → exec .rdStatus s = .next r →
    let failed : RxResult := { valid := false, isAddress := false, data := 0#8, error := true }
    let empty : RxResult := { valid := false, isAddress := false, data := 0#8, error := false }
    (s.rxFerr = true → ∀ u, elapse r = .next u →
      exec .receive s = .next { u with
        rxFerr := false, driver := some { d with lastError := true }, result := failed,
        trace := .record failed :: .accepted :: u.trace }) ∧
    (s.rxFerr = true → s.gaps = [] →
      exec .receive s = .next { r with
        rxFerr := false, driver := some { d with lastError := true }, result := failed,
        trace := .record failed :: .accepted :: r.trace }) ∧
    (s.rxFerr = false → s.rxValid = false →
      exec .receive s = .next { r with result := empty, trace := .record empty :: r.trace })

/-- R223: an address frame with good parity is always returned, and `listening` becomes whether its data is the own
address. The frame is the one in the slot when `RXDATA` is read, in the state `u` that what falls after the read of
`STATUS` leaves. -/
def Obligations.ReceiveAddressFrameSetsListening : Prop :=
  ∀ (s r u : State) (d : Driver), s.driver = some d → s.rxFerr = false → s.rxValid = true →
    exec .rdStatus s = .next r → elapse r = .next u → u.rxValid = true →
    (d.parityMode = .noParity ∨ u.rxSlot.getLsbD 9 = parityBit d.parityMode (u.rxSlot.extractLsb' 0 9)) →
    u.rxSlot.getLsbD 0 = true →
    let record : RxResult := { valid := true, isAddress := true, data := u.rxSlot.extractLsb' 1 8, error := false }
    exec .receive s = .next { u with
      rxValid := false, readValue := u.rxSlot.setWidth 16,
      driver := some { d with
        lastFrame := some { isAddress := true, data := u.rxSlot.extractLsb' 1 8 },
        listening := decide (u.rxSlot.extractLsb' 1 8 = d.ownAddress) },
      result := record, trace := .record record :: .read (u.rxSlot.setWidth 16) :: u.trace }

/-- R224: a data frame with good parity is delivered only while listening, and else silently discarded. -/
def Obligations.ReceiveDataFrameNeedsListening : Prop :=
  ∀ (s r u : State) (d : Driver), s.driver = some d → s.rxFerr = false → s.rxValid = true →
    exec .rdStatus s = .next r → elapse r = .next u → u.rxValid = true →
    (d.parityMode = .noParity ∨ u.rxSlot.getLsbD 9 = parityBit d.parityMode (u.rxSlot.extractLsb' 0 9)) →
    u.rxSlot.getLsbD 0 = false →
    let record : RxResult :=
      if d.listening then { valid := true, isAddress := false, data := u.rxSlot.extractLsb' 1 8, error := false }
      else { valid := false, isAddress := false, data := 0#8, error := false }
    exec .receive s = .next { u with
      rxValid := false, readValue := u.rxSlot.setWidth 16,
      driver := some { d with lastFrame := some { isAddress := false, data := u.rxSlot.extractLsb' 1 8 } },
      result := record, trace := .record record :: .read (u.rxSlot.setWidth 16) :: u.trace }

/-- R225: a parity mismatch discards the frame, raises the sticky error, and leaves `listening` and `last_frame`. -/
def Obligations.ReceiveParityErrorDiscards : Prop :=
  ∀ (s r u : State) (d : Driver), s.driver = some d → s.rxFerr = false → s.rxValid = true →
    exec .rdStatus s = .next r → elapse r = .next u → u.rxValid = true →
    d.parityMode ≠ .noParity → u.rxSlot.getLsbD 9 ≠ parityBit d.parityMode (u.rxSlot.extractLsb' 0 9) →
    let record : RxResult := { valid := false, isAddress := false, data := 0#8, error := true }
    exec .receive s = .next { u with
      rxValid := false, readValue := u.rxSlot.setWidth 16, driver := some { d with lastError := true },
      result := record, trace := .record record :: .read (u.rxSlot.setWidth 16) :: u.trace }

/-- R222 with R215: `receive` completes from every sound state whose driver is configured, whatever ticks and resets fall
between its accesses. `polled` is the state after the read of `STATUS`, `u` the one what falls then leaves. A latched
framing error is cleared and returned. A frame seen in `STATUS` is there to be read where only ticks fell, and the call acts
on the slot as they left it, which may hold a newer frame; where a reset took it away the read returns a free value (R186,
log entry 4). With neither flag set the call returns nothing. -/
def Obligations.ReceiveIsCorrectUnderTicks : Prop :=
  ∀ (s : State) (d : Driver), s.Sound → s.driver = some d →
    let polled := { s with readValue := statusWord s, trace := .read (statusWord s) :: s.trace }
    let failed : RxResult := { valid := false, isAddress := false, data := 0#8, error := true }
    let empty : RxResult := { valid := false, isAddress := false, data := 0#8, error := false }
    (s.rxFerr = true → ∃ u, elapse polled = .next u ∧
      exec .receive s = .next { u with
        rxFerr := false, driver := some { d with lastError := true }, result := failed,
        trace := .record failed :: .accepted :: u.trace }) ∧
    (s.rxFerr = false → s.rxValid = true → ∃ u, elapse polled = .next u ∧
      ((∀ g ∈ s.gaps, Lull.reset ∉ g) → u.rxValid = true) ∧
      (u.rxValid = true → ∃ t,
        t = acceptFrame d (u.rxSlot.setWidth 16)
          { u with
            readValue := u.rxSlot.setWidth 16, rxValid := false, trace := .read (u.rxSlot.setWidth 16) :: u.trace } ∧
        exec .receive s = .next { t with trace := .record t.result :: t.trace }) ∧
      (u.rxValid = false → ∃ v t,
        t = acceptFrame d v { u with readValue := v, draws := u.draws + 1, trace := .read v :: u.trace } ∧
        exec .receive s = .next { t with trace := .record t.result :: t.trace })) ∧
    (s.rxFerr = false → s.rxValid = false →
      exec .receive s = .next { polled with result := empty, trace := .record empty :: polled.trace })

/-! ### The whole machine -/

/-- R33, R149, R25: the invariants hold right after reset. -/
def Obligations.ResetIsSound : Prop := State.reset.Sound

/-- R33, R149, R25: every step keeps the invariants, from every state that meets them. -/
def Obligations.StepKeepsSound : Prop :=
  ∀ s t : State, s.Sound → step s = .next t → t.Sound

/-- In a sound state a tick always has a next state: the two faults are raised nowhere a run can reach (R104, R124). -/
def Obligations.SoundStatesAlwaysTick : Prop :=
  ∀ (s : State) (x : Bool), s.Sound → ∃ t, tickAt x s = .next t

/-- R29, R260: `rx_ferr` is cleared by the reset step, by `WR STATUS` with bit 2 set, inside `configure` and inside
`receive`, and by nothing else. -/
def Obligations.FramingFlagIsSticky : Prop :=
  ∀ s t : State, step s = .next t → s.rxFerr = true → t.rxFerr = false →
    ∃ e rest, s.script = e :: rest ∧
      (e = .reset ∨ s.held = none ∧
        ((∃ cmd v, e = .access cmd ∧ decodeHost cmd = .wrStatus v ∧ v.getLsbD 2 = true) ∨
         (∃ baud code own, e = .call (.configure baud code own)) ∨ e = .call .receive ∨ e = .await))

/-- R35, R227, R228: the driver's variables change only in `configure` and in `receive`, polling or blocking; and once
set `last_error` stays set through everything but `configure`. -/
def Obligations.LastErrorIsSticky : Prop :=
  ∀ s t : State, step s = .next t →
    (t.driver ≠ s.driver → s.held = none ∧ ∃ e rest, s.script = e :: rest ∧
      ((∃ baud code own, e = .call (.configure baud code own)) ∨ e = .call .receive ∨ e = .await)) ∧
    (∀ d, s.driver = some d → d.lastError = true → ∃ d', t.driver = some d' ∧
      (d'.lastError = true ∨ ∃ baud code own rest, s.script = .call (.configure baud code own) :: rest))

/-- R21: while `tx_full = 1` the word in the slot is constant: no step but reset changes it. -/
def Obligations.SlotIsConstantWhileFull : Prop :=
  ∀ s t : State, step s = .next t → s.txFull = true → s.script.head? ≠ some .reset →
    (∀ g ∈ s.gaps, Lull.reset ∉ g) → t.txSlot = s.txSlot

/-- R47, R304: no step changes `CLOCK_HZ`, the identity of the instance or the wiring. R302: no step takes an observation
back, and it shows the level of `tx_out` once for every tick it makes, also inside a driver operation. -/
def Obligations.PlatformIsFixed : Prop :=
  ∀ s t : State, step s = .next t →
    t.clockHz = s.clockHz ∧ t.ident = s.ident ∧ t.wiring = s.wiring ∧
    s.trace <:+ t.trace ∧ (levelsSeen t).length + s.ticks = (levelsSeen s).length + t.ticks

/-- R79, R184: the wait after a framing error ends under an input stream that goes high again: the flag is kept, the
engine is idle having seen the line high, so the next falling edge is a start (R192). While the line stays low the engine
waits and nothing stops it. -/
def Obligations.FramingErrorEndsWhenTheLineReturns : Prop :=
  ∀ (x : Nat → Bool) (s : State), s.Sound → s.rxState = .framingError →
    (ReturnsHigh x → ∃ n t, ticksOn x n s = .next t ∧
      t.rxState = .idle ∧ t.rxPrev = true ∧ t.rxFerr = s.rxFerr ∧ t.rxSlot = s.rxSlot ∧ t.rxValid = s.rxValid) ∧
    (∀ n, (∀ k < n, x (s.ticks + k) = false) → ∃ t, ticksOn x n s = .next t ∧
      t.rxState = .framingError ∧ t.rxFerr = s.rxFerr ∧ t.rxSlot = s.rxSlot ∧ t.rxValid = s.rxValid)

/-- R150: the schedule of one frame. After a word is written to an enabled, empty transmitter, the `n`-th tick shows
wire bit `(n - 1) / TXDIV`, each for exactly `TXDIV` ticks; the buffer is full through `12 * TXDIV` ticks; from the next
on the transmitter is idle with the line high. -/
def Obligations.TransmittedFrameSchedule : Prop :=
  ∀ (s0 s : State) (v : BitVec 16), s0.Sound → s0.en = true → s0.txFull = false → v.toNat < 1024 →
    exec (.wrTxdata v) s0 = .next s →
    ∀ n, ∃ t, ticksFor n s = .next t ∧
      (1 ≤ n → n ≤ 12 * s.txDiv.toNat →
        t.txOut = wireBit (v.setWidth 10) (BitVec.ofNat 4 ((n - 1) / s.txDiv.toNat)) ∧ t.txFull = true ∧
        t.txState = .shift) ∧
      (12 * s.txDiv.toNat < n → t.txOut = true ∧ t.txFull = false ∧ t.txState = .idle)

/-- R140, R76: a held write is lifted: with the transmitter busy, no line of the script left, so that the clock goes on
(log entry 1), and the held write a step of its own (log entry 5), the word is in the slot after at most
`12 * TXDIV + 1` ticks and the one access. -/
def Obligations.HeldWriteIsAccepted : Prop :=
  ∀ (s : State) (v : BitVec 16), s.Sound → s.en = true → s.txFull = true → s.held = some v → v.toNat < 1024 →
    s.script = [] →
    ∃ n t, n ≤ 12 * s.txDiv.toNat + 1 ∧ Sys2Proof.core.run (n + 1) s = .next t ∧
      t.ticks = s.ticks + n ∧ t.held = none ∧ t.txFull = true ∧ t.txSlot = v.setWidth 10

/-- R183 with R174, R176, R179: one frame from its start edge. With `R = RXDIV` and `h = floor(R / 2)`, bit `k` is the
level `R + h + k * R` ticks after the edge tick and the stop bit the level `11 * R + h` ticks after it, whatever the line
does at the other ticks. A high stop bit delivers the ten bits all at once; a low one sets the flag and delivers
nothing; before that tick slot, occupancy and flag are untouched. -/
def Obligations.ReceivedFrameIsTheSampledLevels : Prop :=
  ∀ (s : State) (later : List Bool), s.Sound → s.en = true → s.rxState = .idle → s.rxPrev = true →
    s.line = false :: later →
    let R := s.rxDiv.toNat
    let h := R / 2
    let level := fun n : Nat => later.getD (n - 1) true
    11 * R + h ≤ later.length →
    (∀ n u, n ≤ 11 * R + h → ticksFor n s = .next u →
      u.rxSlot = s.rxSlot ∧ u.rxValid = s.rxValid ∧ u.rxFerr = s.rxFerr) ∧
    ∃ t, ticksFor (11 * R + h + 1) s = .next t ∧
      (level (11 * R + h) = true → t.rxState = .idle ∧ t.rxValid = true ∧ t.rxFerr = s.rxFerr ∧
        ∀ k < 10, t.rxSlot.getLsbD k = level (R + h + k * R)) ∧
      (level (11 * R + h) = false → t.rxState = .framingError ∧ t.rxFerr = true ∧ t.rxValid = s.rxValid ∧
        t.rxSlot = s.rxSlot)

/-- R62, R73, R214, R297: a word crosses the wire of R73. With both instances enabled, equal divisors `c`, the word waiting
in the one and the other idle having seen the line high, the other's slot holds that word, valid, after
`2 + 11 * c + floor(c / 2)` ticks. -/
def Obligations.WordCrossesTheWire : Prop :=
  ∀ (p : Pair) (c : Nat), p.a.Sound → p.b.Sound → p.a.en = true → p.b.en = true →
    p.a.txDiv.toNat = c → p.b.rxDiv.toNat = c → p.a.txState = .idle → p.a.txFull = true →
    p.b.rxState = .idle → p.b.rxPrev = true →
    ∃ q, pairTicks (2 + 11 * c + c / 2) p = some q ∧ q.b.rxState = .idle ∧ q.b.rxValid = true ∧
      q.b.rxSlot = p.a.txSlot ∧ q.b.rxFerr = p.b.rxFerr
end

