-- ==== Sys2Proof/Laws/State.lean ====
section
/-! SUPPORT. One lemma per field of State and per named update of it, each true by `rfl`: what the update makes of the
field, or that it leaves it alone. -/

namespace Sys2Proof.Machine

variable (s : State)

/-! ### `returnRead` -/

@[simp] theorem returnRead_en (v : Reg) : (returnRead s v).en = s.en := rfl
@[simp] theorem returnRead_txDiv (v : Reg) : (returnRead s v).txDiv = s.txDiv := rfl
@[simp] theorem returnRead_rxDiv (v : Reg) : (returnRead s v).rxDiv = s.rxDiv := rfl
@[simp] theorem returnRead_txSlot (v : Reg) : (returnRead s v).txSlot = s.txSlot := rfl
@[simp] theorem returnRead_txFull (v : Reg) : (returnRead s v).txFull = s.txFull := rfl
@[simp] theorem returnRead_txState (v : Reg) : (returnRead s v).txState = s.txState := rfl
@[simp] theorem returnRead_txIdx (v : Reg) : (returnRead s v).txIdx = s.txIdx := rfl
@[simp] theorem returnRead_txCnt (v : Reg) : (returnRead s v).txCnt = s.txCnt := rfl
@[simp] theorem returnRead_txOut (v : Reg) : (returnRead s v).txOut = s.txOut := rfl
@[simp] theorem returnRead_rxState (v : Reg) : (returnRead s v).rxState = s.rxState := rfl
@[simp] theorem returnRead_rxPrev (v : Reg) : (returnRead s v).rxPrev = s.rxPrev := rfl
@[simp] theorem returnRead_rxCnt (v : Reg) : (returnRead s v).rxCnt = s.rxCnt := rfl
@[simp] theorem returnRead_rxBits (v : Reg) : (returnRead s v).rxBits = s.rxBits := rfl
@[simp] theorem returnRead_rxShift (v : Reg) : (returnRead s v).rxShift = s.rxShift := rfl
@[simp] theorem returnRead_rxSlot (v : Reg) : (returnRead s v).rxSlot = s.rxSlot := rfl
@[simp] theorem returnRead_rxValid (v : Reg) : (returnRead s v).rxValid = s.rxValid := rfl
@[simp] theorem returnRead_rxFerr (v : Reg) : (returnRead s v).rxFerr = s.rxFerr := rfl
@[simp] theorem returnRead_driver (v : Reg) : (returnRead s v).driver = s.driver := rfl
@[simp] theorem returnRead_clockHz (v : Reg) : (returnRead s v).clockHz = s.clockHz := rfl
@[simp] theorem returnRead_rxIn (v : Reg) : (returnRead s v).rxIn = s.rxIn := rfl
@[simp] theorem returnRead_wiring (v : Reg) : (returnRead s v).wiring = s.wiring := rfl
@[simp] theorem returnRead_line (v : Reg) : (returnRead s v).line = s.line := rfl
@[simp] theorem returnRead_ticks (v : Reg) : (returnRead s v).ticks = s.ticks := rfl
@[simp] theorem returnRead_script (v : Reg) : (returnRead s v).script = s.script := rfl
@[simp] theorem returnRead_gaps (v : Reg) : (returnRead s v).gaps = s.gaps := rfl
@[simp] theorem returnRead_held (v : Reg) : (returnRead s v).held = s.held := rfl
@[simp] theorem returnRead_readValue (v : Reg) : (returnRead s v).readValue = v := rfl
@[simp] theorem returnRead_result (v : Reg) : (returnRead s v).result = s.result := rfl
@[simp] theorem returnRead_draws (v : Reg) : (returnRead s v).draws = s.draws := rfl
@[simp] theorem returnRead_ident (v : Reg) : (returnRead s v).ident = s.ident := rfl
@[simp] theorem returnRead_trace (v : Reg) : (returnRead s v).trace = .read v :: s.trace := rfl

/-! ### `returnAny` -/

@[simp] theorem returnAny_en : (returnAny s).en = s.en := rfl
@[simp] theorem returnAny_txDiv : (returnAny s).txDiv = s.txDiv := rfl
@[simp] theorem returnAny_rxDiv : (returnAny s).rxDiv = s.rxDiv := rfl
@[simp] theorem returnAny_txSlot : (returnAny s).txSlot = s.txSlot := rfl
@[simp] theorem returnAny_txFull : (returnAny s).txFull = s.txFull := rfl
@[simp] theorem returnAny_txState : (returnAny s).txState = s.txState := rfl
@[simp] theorem returnAny_txIdx : (returnAny s).txIdx = s.txIdx := rfl
@[simp] theorem returnAny_txCnt : (returnAny s).txCnt = s.txCnt := rfl
@[simp] theorem returnAny_txOut : (returnAny s).txOut = s.txOut := rfl
@[simp] theorem returnAny_rxState : (returnAny s).rxState = s.rxState := rfl
@[simp] theorem returnAny_rxPrev : (returnAny s).rxPrev = s.rxPrev := rfl
@[simp] theorem returnAny_rxCnt : (returnAny s).rxCnt = s.rxCnt := rfl
@[simp] theorem returnAny_rxBits : (returnAny s).rxBits = s.rxBits := rfl
@[simp] theorem returnAny_rxShift : (returnAny s).rxShift = s.rxShift := rfl
@[simp] theorem returnAny_rxSlot : (returnAny s).rxSlot = s.rxSlot := rfl
@[simp] theorem returnAny_rxValid : (returnAny s).rxValid = s.rxValid := rfl
@[simp] theorem returnAny_rxFerr : (returnAny s).rxFerr = s.rxFerr := rfl
@[simp] theorem returnAny_driver : (returnAny s).driver = s.driver := rfl
@[simp] theorem returnAny_clockHz : (returnAny s).clockHz = s.clockHz := rfl
@[simp] theorem returnAny_rxIn : (returnAny s).rxIn = s.rxIn := rfl
@[simp] theorem returnAny_wiring : (returnAny s).wiring = s.wiring := rfl
@[simp] theorem returnAny_line : (returnAny s).line = s.line := rfl
@[simp] theorem returnAny_ticks : (returnAny s).ticks = s.ticks := rfl
@[simp] theorem returnAny_script : (returnAny s).script = s.script := rfl
@[simp] theorem returnAny_gaps : (returnAny s).gaps = s.gaps := rfl
@[simp] theorem returnAny_held : (returnAny s).held = s.held := rfl
@[simp] theorem returnAny_readValue : (returnAny s).readValue = Config.anyBits s.ident 16 s.draws := rfl
@[simp] theorem returnAny_result : (returnAny s).result = s.result := rfl
@[simp] theorem returnAny_draws : (returnAny s).draws = s.draws + 1 := rfl
@[simp] theorem returnAny_ident : (returnAny s).ident = s.ident := rfl
@[simp] theorem returnAny_trace : (returnAny s).trace = .read (Config.anyBits s.ident 16 s.draws) :: s.trace := rfl

/-! ### `returnResult` -/

@[simp] theorem returnResult_en (r : RxResult) : (returnResult s r).en = s.en := rfl
@[simp] theorem returnResult_txDiv (r : RxResult) : (returnResult s r).txDiv = s.txDiv := rfl
@[simp] theorem returnResult_rxDiv (r : RxResult) : (returnResult s r).rxDiv = s.rxDiv := rfl
@[simp] theorem returnResult_txSlot (r : RxResult) : (returnResult s r).txSlot = s.txSlot := rfl
@[simp] theorem returnResult_txFull (r : RxResult) : (returnResult s r).txFull = s.txFull := rfl
@[simp] theorem returnResult_txState (r : RxResult) : (returnResult s r).txState = s.txState := rfl
@[simp] theorem returnResult_txIdx (r : RxResult) : (returnResult s r).txIdx = s.txIdx := rfl
@[simp] theorem returnResult_txCnt (r : RxResult) : (returnResult s r).txCnt = s.txCnt := rfl
@[simp] theorem returnResult_txOut (r : RxResult) : (returnResult s r).txOut = s.txOut := rfl
@[simp] theorem returnResult_rxState (r : RxResult) : (returnResult s r).rxState = s.rxState := rfl
@[simp] theorem returnResult_rxPrev (r : RxResult) : (returnResult s r).rxPrev = s.rxPrev := rfl
@[simp] theorem returnResult_rxCnt (r : RxResult) : (returnResult s r).rxCnt = s.rxCnt := rfl
@[simp] theorem returnResult_rxBits (r : RxResult) : (returnResult s r).rxBits = s.rxBits := rfl
@[simp] theorem returnResult_rxShift (r : RxResult) : (returnResult s r).rxShift = s.rxShift := rfl
@[simp] theorem returnResult_rxSlot (r : RxResult) : (returnResult s r).rxSlot = s.rxSlot := rfl
@[simp] theorem returnResult_rxValid (r : RxResult) : (returnResult s r).rxValid = s.rxValid := rfl
@[simp] theorem returnResult_rxFerr (r : RxResult) : (returnResult s r).rxFerr = s.rxFerr := rfl
@[simp] theorem returnResult_driver (r : RxResult) : (returnResult s r).driver = s.driver := rfl
@[simp] theorem returnResult_clockHz (r : RxResult) : (returnResult s r).clockHz = s.clockHz := rfl
@[simp] theorem returnResult_rxIn (r : RxResult) : (returnResult s r).rxIn = s.rxIn := rfl
@[simp] theorem returnResult_wiring (r : RxResult) : (returnResult s r).wiring = s.wiring := rfl
@[simp] theorem returnResult_line (r : RxResult) : (returnResult s r).line = s.line := rfl
@[simp] theorem returnResult_ticks (r : RxResult) : (returnResult s r).ticks = s.ticks := rfl
@[simp] theorem returnResult_script (r : RxResult) : (returnResult s r).script = s.script := rfl
@[simp] theorem returnResult_gaps (r : RxResult) : (returnResult s r).gaps = s.gaps := rfl
@[simp] theorem returnResult_held (r : RxResult) : (returnResult s r).held = s.held := rfl
@[simp] theorem returnResult_readValue (r : RxResult) : (returnResult s r).readValue = s.readValue := rfl
@[simp] theorem returnResult_result (r : RxResult) : (returnResult s r).result = r := rfl
@[simp] theorem returnResult_draws (r : RxResult) : (returnResult s r).draws = s.draws := rfl
@[simp] theorem returnResult_ident (r : RxResult) : (returnResult s r).ident = s.ident := rfl
@[simp] theorem returnResult_trace (r : RxResult) : (returnResult s r).trace = s.trace := rfl

/-! ### `holdWrite` -/

@[simp] theorem holdWrite_en (v : Reg) : (holdWrite s v).en = s.en := rfl
@[simp] theorem holdWrite_txDiv (v : Reg) : (holdWrite s v).txDiv = s.txDiv := rfl
@[simp] theorem holdWrite_rxDiv (v : Reg) : (holdWrite s v).rxDiv = s.rxDiv := rfl
@[simp] theorem holdWrite_txSlot (v : Reg) : (holdWrite s v).txSlot = s.txSlot := rfl
@[simp] theorem holdWrite_txFull (v : Reg) : (holdWrite s v).txFull = s.txFull := rfl
@[simp] theorem holdWrite_txState (v : Reg) : (holdWrite s v).txState = s.txState := rfl
@[simp] theorem holdWrite_txIdx (v : Reg) : (holdWrite s v).txIdx = s.txIdx := rfl
@[simp] theorem holdWrite_txCnt (v : Reg) : (holdWrite s v).txCnt = s.txCnt := rfl
@[simp] theorem holdWrite_txOut (v : Reg) : (holdWrite s v).txOut = s.txOut := rfl
@[simp] theorem holdWrite_rxState (v : Reg) : (holdWrite s v).rxState = s.rxState := rfl
@[simp] theorem holdWrite_rxPrev (v : Reg) : (holdWrite s v).rxPrev = s.rxPrev := rfl
@[simp] theorem holdWrite_rxCnt (v : Reg) : (holdWrite s v).rxCnt = s.rxCnt := rfl
@[simp] theorem holdWrite_rxBits (v : Reg) : (holdWrite s v).rxBits = s.rxBits := rfl
@[simp] theorem holdWrite_rxShift (v : Reg) : (holdWrite s v).rxShift = s.rxShift := rfl
@[simp] theorem holdWrite_rxSlot (v : Reg) : (holdWrite s v).rxSlot = s.rxSlot := rfl
@[simp] theorem holdWrite_rxValid (v : Reg) : (holdWrite s v).rxValid = s.rxValid := rfl
@[simp] theorem holdWrite_rxFerr (v : Reg) : (holdWrite s v).rxFerr = s.rxFerr := rfl
@[simp] theorem holdWrite_driver (v : Reg) : (holdWrite s v).driver = s.driver := rfl
@[simp] theorem holdWrite_clockHz (v : Reg) : (holdWrite s v).clockHz = s.clockHz := rfl
@[simp] theorem holdWrite_rxIn (v : Reg) : (holdWrite s v).rxIn = s.rxIn := rfl
@[simp] theorem holdWrite_wiring (v : Reg) : (holdWrite s v).wiring = s.wiring := rfl
@[simp] theorem holdWrite_line (v : Reg) : (holdWrite s v).line = s.line := rfl
@[simp] theorem holdWrite_ticks (v : Reg) : (holdWrite s v).ticks = s.ticks := rfl
@[simp] theorem holdWrite_script (v : Reg) : (holdWrite s v).script = s.script := rfl
@[simp] theorem holdWrite_gaps (v : Reg) : (holdWrite s v).gaps = s.gaps := rfl
@[simp] theorem holdWrite_held (v : Reg) : (holdWrite s v).held = some v := rfl
@[simp] theorem holdWrite_readValue (v : Reg) : (holdWrite s v).readValue = s.readValue := rfl
@[simp] theorem holdWrite_result (v : Reg) : (holdWrite s v).result = s.result := rfl
@[simp] theorem holdWrite_draws (v : Reg) : (holdWrite s v).draws = s.draws := rfl
@[simp] theorem holdWrite_ident (v : Reg) : (holdWrite s v).ident = s.ident := rfl
@[simp] theorem holdWrite_trace (v : Reg) : (holdWrite s v).trace = .held :: s.trace := rfl

/-! ### `acceptWord` -/

@[simp] theorem acceptWord_en (v : Reg) : (acceptWord s v).en = s.en := rfl
@[simp] theorem acceptWord_txDiv (v : Reg) : (acceptWord s v).txDiv = s.txDiv := rfl
@[simp] theorem acceptWord_rxDiv (v : Reg) : (acceptWord s v).rxDiv = s.rxDiv := rfl
@[simp] theorem acceptWord_txSlot (v : Reg) : (acceptWord s v).txSlot = v.extractLsb' 0 10 := rfl
@[simp] theorem acceptWord_txFull (v : Reg) : (acceptWord s v).txFull = true := rfl
@[simp] theorem acceptWord_txState (v : Reg) : (acceptWord s v).txState = s.txState := rfl
@[simp] theorem acceptWord_txIdx (v : Reg) : (acceptWord s v).txIdx = s.txIdx := rfl
@[simp] theorem acceptWord_txCnt (v : Reg) : (acceptWord s v).txCnt = s.txCnt := rfl
@[simp] theorem acceptWord_txOut (v : Reg) : (acceptWord s v).txOut = s.txOut := rfl
@[simp] theorem acceptWord_rxState (v : Reg) : (acceptWord s v).rxState = s.rxState := rfl
@[simp] theorem acceptWord_rxPrev (v : Reg) : (acceptWord s v).rxPrev = s.rxPrev := rfl
@[simp] theorem acceptWord_rxCnt (v : Reg) : (acceptWord s v).rxCnt = s.rxCnt := rfl
@[simp] theorem acceptWord_rxBits (v : Reg) : (acceptWord s v).rxBits = s.rxBits := rfl
@[simp] theorem acceptWord_rxShift (v : Reg) : (acceptWord s v).rxShift = s.rxShift := rfl
@[simp] theorem acceptWord_rxSlot (v : Reg) : (acceptWord s v).rxSlot = s.rxSlot := rfl
@[simp] theorem acceptWord_rxValid (v : Reg) : (acceptWord s v).rxValid = s.rxValid := rfl
@[simp] theorem acceptWord_rxFerr (v : Reg) : (acceptWord s v).rxFerr = s.rxFerr := rfl
@[simp] theorem acceptWord_driver (v : Reg) : (acceptWord s v).driver = s.driver := rfl
@[simp] theorem acceptWord_clockHz (v : Reg) : (acceptWord s v).clockHz = s.clockHz := rfl
@[simp] theorem acceptWord_rxIn (v : Reg) : (acceptWord s v).rxIn = s.rxIn := rfl
@[simp] theorem acceptWord_wiring (v : Reg) : (acceptWord s v).wiring = s.wiring := rfl
@[simp] theorem acceptWord_line (v : Reg) : (acceptWord s v).line = s.line := rfl
@[simp] theorem acceptWord_ticks (v : Reg) : (acceptWord s v).ticks = s.ticks := rfl
@[simp] theorem acceptWord_script (v : Reg) : (acceptWord s v).script = s.script := rfl
@[simp] theorem acceptWord_gaps (v : Reg) : (acceptWord s v).gaps = s.gaps := rfl
@[simp] theorem acceptWord_held (v : Reg) : (acceptWord s v).held = none := rfl
@[simp] theorem acceptWord_readValue (v : Reg) : (acceptWord s v).readValue = s.readValue := rfl
@[simp] theorem acceptWord_result (v : Reg) : (acceptWord s v).result = s.result := rfl
@[simp] theorem acceptWord_draws (v : Reg) : (acceptWord s v).draws = s.draws := rfl
@[simp] theorem acceptWord_ident (v : Reg) : (acceptWord s v).ident = s.ident := rfl
@[simp] theorem acceptWord_trace (v : Reg) : (acceptWord s v).trace = .accepted :: s.trace := rfl

/-! ### `popSlot` -/

@[simp] theorem popSlot_en : (popSlot s).en = s.en := rfl
@[simp] theorem popSlot_txDiv : (popSlot s).txDiv = s.txDiv := rfl
@[simp] theorem popSlot_rxDiv : (popSlot s).rxDiv = s.rxDiv := rfl
@[simp] theorem popSlot_txSlot : (popSlot s).txSlot = s.txSlot := rfl
@[simp] theorem popSlot_txFull : (popSlot s).txFull = s.txFull := rfl
@[simp] theorem popSlot_txState : (popSlot s).txState = s.txState := rfl
@[simp] theorem popSlot_txIdx : (popSlot s).txIdx = s.txIdx := rfl
@[simp] theorem popSlot_txCnt : (popSlot s).txCnt = s.txCnt := rfl
@[simp] theorem popSlot_txOut : (popSlot s).txOut = s.txOut := rfl
@[simp] theorem popSlot_rxState : (popSlot s).rxState = s.rxState := rfl
@[simp] theorem popSlot_rxPrev : (popSlot s).rxPrev = s.rxPrev := rfl
@[simp] theorem popSlot_rxCnt : (popSlot s).rxCnt = s.rxCnt := rfl
@[simp] theorem popSlot_rxBits : (popSlot s).rxBits = s.rxBits := rfl
@[simp] theorem popSlot_rxShift : (popSlot s).rxShift = s.rxShift := rfl
@[simp] theorem popSlot_rxSlot : (popSlot s).rxSlot = s.rxSlot := rfl
@[simp] theorem popSlot_rxValid : (popSlot s).rxValid = false := rfl
@[simp] theorem popSlot_rxFerr : (popSlot s).rxFerr = s.rxFerr := rfl
@[simp] theorem popSlot_driver : (popSlot s).driver = s.driver := rfl
@[simp] theorem popSlot_clockHz : (popSlot s).clockHz = s.clockHz := rfl
@[simp] theorem popSlot_rxIn : (popSlot s).rxIn = s.rxIn := rfl
@[simp] theorem popSlot_wiring : (popSlot s).wiring = s.wiring := rfl
@[simp] theorem popSlot_line : (popSlot s).line = s.line := rfl
@[simp] theorem popSlot_ticks : (popSlot s).ticks = s.ticks := rfl
@[simp] theorem popSlot_script : (popSlot s).script = s.script := rfl
@[simp] theorem popSlot_gaps : (popSlot s).gaps = s.gaps := rfl
@[simp] theorem popSlot_held : (popSlot s).held = s.held := rfl
@[simp] theorem popSlot_readValue : (popSlot s).readValue = s.readValue := rfl
@[simp] theorem popSlot_result : (popSlot s).result = s.result := rfl
@[simp] theorem popSlot_draws : (popSlot s).draws = s.draws := rfl
@[simp] theorem popSlot_ident : (popSlot s).ident = s.ident := rfl
@[simp] theorem popSlot_trace : (popSlot s).trace = s.trace := rfl

/-! ### `clearFerr` -/

@[simp] theorem clearFerr_en : (clearFerr s).en = s.en := rfl
@[simp] theorem clearFerr_txDiv : (clearFerr s).txDiv = s.txDiv := rfl
@[simp] theorem clearFerr_rxDiv : (clearFerr s).rxDiv = s.rxDiv := rfl
@[simp] theorem clearFerr_txSlot : (clearFerr s).txSlot = s.txSlot := rfl
@[simp] theorem clearFerr_txFull : (clearFerr s).txFull = s.txFull := rfl
@[simp] theorem clearFerr_txState : (clearFerr s).txState = s.txState := rfl
@[simp] theorem clearFerr_txIdx : (clearFerr s).txIdx = s.txIdx := rfl
@[simp] theorem clearFerr_txCnt : (clearFerr s).txCnt = s.txCnt := rfl
@[simp] theorem clearFerr_txOut : (clearFerr s).txOut = s.txOut := rfl
@[simp] theorem clearFerr_rxState : (clearFerr s).rxState = s.rxState := rfl
@[simp] theorem clearFerr_rxPrev : (clearFerr s).rxPrev = s.rxPrev := rfl
@[simp] theorem clearFerr_rxCnt : (clearFerr s).rxCnt = s.rxCnt := rfl
@[simp] theorem clearFerr_rxBits : (clearFerr s).rxBits = s.rxBits := rfl
@[simp] theorem clearFerr_rxShift : (clearFerr s).rxShift = s.rxShift := rfl
@[simp] theorem clearFerr_rxSlot : (clearFerr s).rxSlot = s.rxSlot := rfl
@[simp] theorem clearFerr_rxValid : (clearFerr s).rxValid = s.rxValid := rfl
@[simp] theorem clearFerr_rxFerr : (clearFerr s).rxFerr = false := rfl
@[simp] theorem clearFerr_driver : (clearFerr s).driver = s.driver := rfl
@[simp] theorem clearFerr_clockHz : (clearFerr s).clockHz = s.clockHz := rfl
@[simp] theorem clearFerr_rxIn : (clearFerr s).rxIn = s.rxIn := rfl
@[simp] theorem clearFerr_wiring : (clearFerr s).wiring = s.wiring := rfl
@[simp] theorem clearFerr_line : (clearFerr s).line = s.line := rfl
@[simp] theorem clearFerr_ticks : (clearFerr s).ticks = s.ticks := rfl
@[simp] theorem clearFerr_script : (clearFerr s).script = s.script := rfl
@[simp] theorem clearFerr_gaps : (clearFerr s).gaps = s.gaps := rfl
@[simp] theorem clearFerr_held : (clearFerr s).held = s.held := rfl
@[simp] theorem clearFerr_readValue : (clearFerr s).readValue = s.readValue := rfl
@[simp] theorem clearFerr_result : (clearFerr s).result = s.result := rfl
@[simp] theorem clearFerr_draws : (clearFerr s).draws = s.draws := rfl
@[simp] theorem clearFerr_ident : (clearFerr s).ident = s.ident := rfl
@[simp] theorem clearFerr_trace : (clearFerr s).trace = s.trace := rfl

/-! ### `setEn` -/

@[simp] theorem setEn_en : (setEn s).en = true := rfl
@[simp] theorem setEn_txDiv : (setEn s).txDiv = s.txDiv := rfl
@[simp] theorem setEn_rxDiv : (setEn s).rxDiv = s.rxDiv := rfl
@[simp] theorem setEn_txSlot : (setEn s).txSlot = s.txSlot := rfl
@[simp] theorem setEn_txFull : (setEn s).txFull = s.txFull := rfl
@[simp] theorem setEn_txState : (setEn s).txState = s.txState := rfl
@[simp] theorem setEn_txIdx : (setEn s).txIdx = s.txIdx := rfl
@[simp] theorem setEn_txCnt : (setEn s).txCnt = s.txCnt := rfl
@[simp] theorem setEn_txOut : (setEn s).txOut = s.txOut := rfl
@[simp] theorem setEn_rxState : (setEn s).rxState = s.rxState := rfl
@[simp] theorem setEn_rxPrev : (setEn s).rxPrev = s.rxPrev := rfl
@[simp] theorem setEn_rxCnt : (setEn s).rxCnt = s.rxCnt := rfl
@[simp] theorem setEn_rxBits : (setEn s).rxBits = s.rxBits := rfl
@[simp] theorem setEn_rxShift : (setEn s).rxShift = s.rxShift := rfl
@[simp] theorem setEn_rxSlot : (setEn s).rxSlot = s.rxSlot := rfl
@[simp] theorem setEn_rxValid : (setEn s).rxValid = s.rxValid := rfl
@[simp] theorem setEn_rxFerr : (setEn s).rxFerr = s.rxFerr := rfl
@[simp] theorem setEn_driver : (setEn s).driver = s.driver := rfl
@[simp] theorem setEn_clockHz : (setEn s).clockHz = s.clockHz := rfl
@[simp] theorem setEn_rxIn : (setEn s).rxIn = s.rxIn := rfl
@[simp] theorem setEn_wiring : (setEn s).wiring = s.wiring := rfl
@[simp] theorem setEn_line : (setEn s).line = s.line := rfl
@[simp] theorem setEn_ticks : (setEn s).ticks = s.ticks := rfl
@[simp] theorem setEn_script : (setEn s).script = s.script := rfl
@[simp] theorem setEn_gaps : (setEn s).gaps = s.gaps := rfl
@[simp] theorem setEn_held : (setEn s).held = s.held := rfl
@[simp] theorem setEn_readValue : (setEn s).readValue = s.readValue := rfl
@[simp] theorem setEn_result : (setEn s).result = s.result := rfl
@[simp] theorem setEn_draws : (setEn s).draws = s.draws := rfl
@[simp] theorem setEn_ident : (setEn s).ident = s.ident := rfl
@[simp] theorem setEn_trace : (setEn s).trace = s.trace := rfl

/-! ### `clearEn` -/

@[simp] theorem clearEn_en : (clearEn s).en = false := rfl
@[simp] theorem clearEn_txDiv : (clearEn s).txDiv = s.txDiv := rfl
@[simp] theorem clearEn_rxDiv : (clearEn s).rxDiv = s.rxDiv := rfl
@[simp] theorem clearEn_txSlot : (clearEn s).txSlot = s.txSlot := rfl
@[simp] theorem clearEn_txFull : (clearEn s).txFull = s.txFull := rfl
@[simp] theorem clearEn_txState : (clearEn s).txState = s.txState := rfl
@[simp] theorem clearEn_txIdx : (clearEn s).txIdx = s.txIdx := rfl
@[simp] theorem clearEn_txCnt : (clearEn s).txCnt = s.txCnt := rfl
@[simp] theorem clearEn_txOut : (clearEn s).txOut = s.txOut := rfl
@[simp] theorem clearEn_rxState : (clearEn s).rxState = s.rxState := rfl
@[simp] theorem clearEn_rxPrev : (clearEn s).rxPrev = false := rfl
@[simp] theorem clearEn_rxCnt : (clearEn s).rxCnt = s.rxCnt := rfl
@[simp] theorem clearEn_rxBits : (clearEn s).rxBits = s.rxBits := rfl
@[simp] theorem clearEn_rxShift : (clearEn s).rxShift = s.rxShift := rfl
@[simp] theorem clearEn_rxSlot : (clearEn s).rxSlot = s.rxSlot := rfl
@[simp] theorem clearEn_rxValid : (clearEn s).rxValid = s.rxValid := rfl
@[simp] theorem clearEn_rxFerr : (clearEn s).rxFerr = s.rxFerr := rfl
@[simp] theorem clearEn_driver : (clearEn s).driver = s.driver := rfl
@[simp] theorem clearEn_clockHz : (clearEn s).clockHz = s.clockHz := rfl
@[simp] theorem clearEn_rxIn : (clearEn s).rxIn = s.rxIn := rfl
@[simp] theorem clearEn_wiring : (clearEn s).wiring = s.wiring := rfl
@[simp] theorem clearEn_line : (clearEn s).line = s.line := rfl
@[simp] theorem clearEn_ticks : (clearEn s).ticks = s.ticks := rfl
@[simp] theorem clearEn_script : (clearEn s).script = s.script := rfl
@[simp] theorem clearEn_gaps : (clearEn s).gaps = s.gaps := rfl
@[simp] theorem clearEn_held : (clearEn s).held = s.held := rfl
@[simp] theorem clearEn_readValue : (clearEn s).readValue = s.readValue := rfl
@[simp] theorem clearEn_result : (clearEn s).result = s.result := rfl
@[simp] theorem clearEn_draws : (clearEn s).draws = s.draws := rfl
@[simp] theorem clearEn_ident : (clearEn s).ident = s.ident := rfl
@[simp] theorem clearEn_trace : (clearEn s).trace = s.trace := rfl

/-! ### `txCount` -/

@[simp] theorem txCount_en : (txCount s).en = s.en := rfl
@[simp] theorem txCount_txDiv : (txCount s).txDiv = s.txDiv := rfl
@[simp] theorem txCount_rxDiv : (txCount s).rxDiv = s.rxDiv := rfl
@[simp] theorem txCount_txSlot : (txCount s).txSlot = s.txSlot := rfl
@[simp] theorem txCount_txFull : (txCount s).txFull = s.txFull := rfl
@[simp] theorem txCount_txState : (txCount s).txState = s.txState := rfl
@[simp] theorem txCount_txIdx : (txCount s).txIdx = s.txIdx := rfl
@[simp] theorem txCount_txCnt : (txCount s).txCnt = s.txCnt - 1#16 := rfl
@[simp] theorem txCount_txOut : (txCount s).txOut = s.txOut := rfl
@[simp] theorem txCount_rxState : (txCount s).rxState = s.rxState := rfl
@[simp] theorem txCount_rxPrev : (txCount s).rxPrev = s.rxPrev := rfl
@[simp] theorem txCount_rxCnt : (txCount s).rxCnt = s.rxCnt := rfl
@[simp] theorem txCount_rxBits : (txCount s).rxBits = s.rxBits := rfl
@[simp] theorem txCount_rxShift : (txCount s).rxShift = s.rxShift := rfl
@[simp] theorem txCount_rxSlot : (txCount s).rxSlot = s.rxSlot := rfl
@[simp] theorem txCount_rxValid : (txCount s).rxValid = s.rxValid := rfl
@[simp] theorem txCount_rxFerr : (txCount s).rxFerr = s.rxFerr := rfl
@[simp] theorem txCount_driver : (txCount s).driver = s.driver := rfl
@[simp] theorem txCount_clockHz : (txCount s).clockHz = s.clockHz := rfl
@[simp] theorem txCount_rxIn : (txCount s).rxIn = s.rxIn := rfl
@[simp] theorem txCount_wiring : (txCount s).wiring = s.wiring := rfl
@[simp] theorem txCount_line : (txCount s).line = s.line := rfl
@[simp] theorem txCount_ticks : (txCount s).ticks = s.ticks := rfl
@[simp] theorem txCount_script : (txCount s).script = s.script := rfl
@[simp] theorem txCount_gaps : (txCount s).gaps = s.gaps := rfl
@[simp] theorem txCount_held : (txCount s).held = s.held := rfl
@[simp] theorem txCount_readValue : (txCount s).readValue = s.readValue := rfl
@[simp] theorem txCount_result : (txCount s).result = s.result := rfl
@[simp] theorem txCount_draws : (txCount s).draws = s.draws := rfl
@[simp] theorem txCount_ident : (txCount s).ident = s.ident := rfl
@[simp] theorem txCount_trace : (txCount s).trace = s.trace := rfl

/-! ### `txEmit` -/

@[simp] theorem txEmit_en (i : BitVec 4) : (txEmit s i).en = s.en := rfl
@[simp] theorem txEmit_txDiv (i : BitVec 4) : (txEmit s i).txDiv = s.txDiv := rfl
@[simp] theorem txEmit_rxDiv (i : BitVec 4) : (txEmit s i).rxDiv = s.rxDiv := rfl
@[simp] theorem txEmit_txSlot (i : BitVec 4) : (txEmit s i).txSlot = s.txSlot := rfl
@[simp] theorem txEmit_txFull (i : BitVec 4) : (txEmit s i).txFull = s.txFull := rfl
@[simp] theorem txEmit_txState (i : BitVec 4) : (txEmit s i).txState = s.txState := rfl
@[simp] theorem txEmit_txIdx (i : BitVec 4) : (txEmit s i).txIdx = i := rfl
@[simp] theorem txEmit_txCnt (i : BitVec 4) : (txEmit s i).txCnt = s.txDiv := rfl
@[simp] theorem txEmit_txOut (i : BitVec 4) : (txEmit s i).txOut = wireBit s.txSlot i := rfl
@[simp] theorem txEmit_rxState (i : BitVec 4) : (txEmit s i).rxState = s.rxState := rfl
@[simp] theorem txEmit_rxPrev (i : BitVec 4) : (txEmit s i).rxPrev = s.rxPrev := rfl
@[simp] theorem txEmit_rxCnt (i : BitVec 4) : (txEmit s i).rxCnt = s.rxCnt := rfl
@[simp] theorem txEmit_rxBits (i : BitVec 4) : (txEmit s i).rxBits = s.rxBits := rfl
@[simp] theorem txEmit_rxShift (i : BitVec 4) : (txEmit s i).rxShift = s.rxShift := rfl
@[simp] theorem txEmit_rxSlot (i : BitVec 4) : (txEmit s i).rxSlot = s.rxSlot := rfl
@[simp] theorem txEmit_rxValid (i : BitVec 4) : (txEmit s i).rxValid = s.rxValid := rfl
@[simp] theorem txEmit_rxFerr (i : BitVec 4) : (txEmit s i).rxFerr = s.rxFerr := rfl
@[simp] theorem txEmit_driver (i : BitVec 4) : (txEmit s i).driver = s.driver := rfl
@[simp] theorem txEmit_clockHz (i : BitVec 4) : (txEmit s i).clockHz = s.clockHz := rfl
@[simp] theorem txEmit_rxIn (i : BitVec 4) : (txEmit s i).rxIn = s.rxIn := rfl
@[simp] theorem txEmit_wiring (i : BitVec 4) : (txEmit s i).wiring = s.wiring := rfl
@[simp] theorem txEmit_line (i : BitVec 4) : (txEmit s i).line = s.line := rfl
@[simp] theorem txEmit_ticks (i : BitVec 4) : (txEmit s i).ticks = s.ticks := rfl
@[simp] theorem txEmit_script (i : BitVec 4) : (txEmit s i).script = s.script := rfl
@[simp] theorem txEmit_gaps (i : BitVec 4) : (txEmit s i).gaps = s.gaps := rfl
@[simp] theorem txEmit_held (i : BitVec 4) : (txEmit s i).held = s.held := rfl
@[simp] theorem txEmit_readValue (i : BitVec 4) : (txEmit s i).readValue = s.readValue := rfl
@[simp] theorem txEmit_result (i : BitVec 4) : (txEmit s i).result = s.result := rfl
@[simp] theorem txEmit_draws (i : BitVec 4) : (txEmit s i).draws = s.draws := rfl
@[simp] theorem txEmit_ident (i : BitVec 4) : (txEmit s i).ident = s.ident := rfl
@[simp] theorem txEmit_trace (i : BitVec 4) : (txEmit s i).trace = s.trace := rfl

/-! ### `txBegin` -/

@[simp] theorem txBegin_en : (txBegin s).en = s.en := rfl
@[simp] theorem txBegin_txDiv : (txBegin s).txDiv = s.txDiv := rfl
@[simp] theorem txBegin_rxDiv : (txBegin s).rxDiv = s.rxDiv := rfl
@[simp] theorem txBegin_txSlot : (txBegin s).txSlot = s.txSlot := rfl
@[simp] theorem txBegin_txFull : (txBegin s).txFull = s.txFull := rfl
@[simp] theorem txBegin_txState : (txBegin s).txState = .shift := rfl
@[simp] theorem txBegin_txIdx : (txBegin s).txIdx = 0#4 := rfl
@[simp] theorem txBegin_txCnt : (txBegin s).txCnt = s.txDiv := rfl
@[simp] theorem txBegin_txOut : (txBegin s).txOut = false := rfl
@[simp] theorem txBegin_rxState : (txBegin s).rxState = s.rxState := rfl
@[simp] theorem txBegin_rxPrev : (txBegin s).rxPrev = s.rxPrev := rfl
@[simp] theorem txBegin_rxCnt : (txBegin s).rxCnt = s.rxCnt := rfl
@[simp] theorem txBegin_rxBits : (txBegin s).rxBits = s.rxBits := rfl
@[simp] theorem txBegin_rxShift : (txBegin s).rxShift = s.rxShift := rfl
@[simp] theorem txBegin_rxSlot : (txBegin s).rxSlot = s.rxSlot := rfl
@[simp] theorem txBegin_rxValid : (txBegin s).rxValid = s.rxValid := rfl
@[simp] theorem txBegin_rxFerr : (txBegin s).rxFerr = s.rxFerr := rfl
@[simp] theorem txBegin_driver : (txBegin s).driver = s.driver := rfl
@[simp] theorem txBegin_clockHz : (txBegin s).clockHz = s.clockHz := rfl
@[simp] theorem txBegin_rxIn : (txBegin s).rxIn = s.rxIn := rfl
@[simp] theorem txBegin_wiring : (txBegin s).wiring = s.wiring := rfl
@[simp] theorem txBegin_line : (txBegin s).line = s.line := rfl
@[simp] theorem txBegin_ticks : (txBegin s).ticks = s.ticks := rfl
@[simp] theorem txBegin_script : (txBegin s).script = s.script := rfl
@[simp] theorem txBegin_gaps : (txBegin s).gaps = s.gaps := rfl
@[simp] theorem txBegin_held : (txBegin s).held = s.held := rfl
@[simp] theorem txBegin_readValue : (txBegin s).readValue = s.readValue := rfl
@[simp] theorem txBegin_result : (txBegin s).result = s.result := rfl
@[simp] theorem txBegin_draws : (txBegin s).draws = s.draws := rfl
@[simp] theorem txBegin_ident : (txBegin s).ident = s.ident := rfl
@[simp] theorem txBegin_trace : (txBegin s).trace = s.trace := rfl

/-! ### `txFinish` -/

@[simp] theorem txFinish_en : (txFinish s).en = s.en := rfl
@[simp] theorem txFinish_txDiv : (txFinish s).txDiv = s.txDiv := rfl
@[simp] theorem txFinish_rxDiv : (txFinish s).rxDiv = s.rxDiv := rfl
@[simp] theorem txFinish_txSlot : (txFinish s).txSlot = s.txSlot := rfl
@[simp] theorem txFinish_txFull : (txFinish s).txFull = false := rfl
@[simp] theorem txFinish_txState : (txFinish s).txState = .idle := rfl
@[simp] theorem txFinish_txIdx : (txFinish s).txIdx = s.txIdx := rfl
@[simp] theorem txFinish_txCnt : (txFinish s).txCnt = s.txCnt := rfl
@[simp] theorem txFinish_txOut : (txFinish s).txOut = s.txOut := rfl
@[simp] theorem txFinish_rxState : (txFinish s).rxState = s.rxState := rfl
@[simp] theorem txFinish_rxPrev : (txFinish s).rxPrev = s.rxPrev := rfl
@[simp] theorem txFinish_rxCnt : (txFinish s).rxCnt = s.rxCnt := rfl
@[simp] theorem txFinish_rxBits : (txFinish s).rxBits = s.rxBits := rfl
@[simp] theorem txFinish_rxShift : (txFinish s).rxShift = s.rxShift := rfl
@[simp] theorem txFinish_rxSlot : (txFinish s).rxSlot = s.rxSlot := rfl
@[simp] theorem txFinish_rxValid : (txFinish s).rxValid = s.rxValid := rfl
@[simp] theorem txFinish_rxFerr : (txFinish s).rxFerr = s.rxFerr := rfl
@[simp] theorem txFinish_driver : (txFinish s).driver = s.driver := rfl
@[simp] theorem txFinish_clockHz : (txFinish s).clockHz = s.clockHz := rfl
@[simp] theorem txFinish_rxIn : (txFinish s).rxIn = s.rxIn := rfl
@[simp] theorem txFinish_wiring : (txFinish s).wiring = s.wiring := rfl
@[simp] theorem txFinish_line : (txFinish s).line = s.line := rfl
@[simp] theorem txFinish_ticks : (txFinish s).ticks = s.ticks := rfl
@[simp] theorem txFinish_script : (txFinish s).script = s.script := rfl
@[simp] theorem txFinish_gaps : (txFinish s).gaps = s.gaps := rfl
@[simp] theorem txFinish_held : (txFinish s).held = s.held := rfl
@[simp] theorem txFinish_readValue : (txFinish s).readValue = s.readValue := rfl
@[simp] theorem txFinish_result : (txFinish s).result = s.result := rfl
@[simp] theorem txFinish_draws : (txFinish s).draws = s.draws := rfl
@[simp] theorem txFinish_ident : (txFinish s).ident = s.ident := rfl
@[simp] theorem txFinish_trace : (txFinish s).trace = s.trace := rfl

/-! ### `rxLatch` -/

@[simp] theorem rxLatch_en : (rxLatch s).en = s.en := rfl
@[simp] theorem rxLatch_txDiv : (rxLatch s).txDiv = s.txDiv := rfl
@[simp] theorem rxLatch_rxDiv : (rxLatch s).rxDiv = s.rxDiv := rfl
@[simp] theorem rxLatch_txSlot : (rxLatch s).txSlot = s.txSlot := rfl
@[simp] theorem rxLatch_txFull : (rxLatch s).txFull = s.txFull := rfl
@[simp] theorem rxLatch_txState : (rxLatch s).txState = s.txState := rfl
@[simp] theorem rxLatch_txIdx : (rxLatch s).txIdx = s.txIdx := rfl
@[simp] theorem rxLatch_txCnt : (rxLatch s).txCnt = s.txCnt := rfl
@[simp] theorem rxLatch_txOut : (rxLatch s).txOut = s.txOut := rfl
@[simp] theorem rxLatch_rxState : (rxLatch s).rxState = s.rxState := rfl
@[simp] theorem rxLatch_rxPrev : (rxLatch s).rxPrev = s.rxIn := rfl
@[simp] theorem rxLatch_rxCnt : (rxLatch s).rxCnt = s.rxCnt := rfl
@[simp] theorem rxLatch_rxBits : (rxLatch s).rxBits = s.rxBits := rfl
@[simp] theorem rxLatch_rxShift : (rxLatch s).rxShift = s.rxShift := rfl
@[simp] theorem rxLatch_rxSlot : (rxLatch s).rxSlot = s.rxSlot := rfl
@[simp] theorem rxLatch_rxValid : (rxLatch s).rxValid = s.rxValid := rfl
@[simp] theorem rxLatch_rxFerr : (rxLatch s).rxFerr = s.rxFerr := rfl
@[simp] theorem rxLatch_driver : (rxLatch s).driver = s.driver := rfl
@[simp] theorem rxLatch_clockHz : (rxLatch s).clockHz = s.clockHz := rfl
@[simp] theorem rxLatch_rxIn : (rxLatch s).rxIn = s.rxIn := rfl
@[simp] theorem rxLatch_wiring : (rxLatch s).wiring = s.wiring := rfl
@[simp] theorem rxLatch_line : (rxLatch s).line = s.line := rfl
@[simp] theorem rxLatch_ticks : (rxLatch s).ticks = s.ticks := rfl
@[simp] theorem rxLatch_script : (rxLatch s).script = s.script := rfl
@[simp] theorem rxLatch_gaps : (rxLatch s).gaps = s.gaps := rfl
@[simp] theorem rxLatch_held : (rxLatch s).held = s.held := rfl
@[simp] theorem rxLatch_readValue : (rxLatch s).readValue = s.readValue := rfl
@[simp] theorem rxLatch_result : (rxLatch s).result = s.result := rfl
@[simp] theorem rxLatch_draws : (rxLatch s).draws = s.draws := rfl
@[simp] theorem rxLatch_ident : (rxLatch s).ident = s.ident := rfl
@[simp] theorem rxLatch_trace : (rxLatch s).trace = s.trace := rfl

/-! ### `rxCount` -/

@[simp] theorem rxCount_en : (rxCount s).en = s.en := rfl
@[simp] theorem rxCount_txDiv : (rxCount s).txDiv = s.txDiv := rfl
@[simp] theorem rxCount_rxDiv : (rxCount s).rxDiv = s.rxDiv := rfl
@[simp] theorem rxCount_txSlot : (rxCount s).txSlot = s.txSlot := rfl
@[simp] theorem rxCount_txFull : (rxCount s).txFull = s.txFull := rfl
@[simp] theorem rxCount_txState : (rxCount s).txState = s.txState := rfl
@[simp] theorem rxCount_txIdx : (rxCount s).txIdx = s.txIdx := rfl
@[simp] theorem rxCount_txCnt : (rxCount s).txCnt = s.txCnt := rfl
@[simp] theorem rxCount_txOut : (rxCount s).txOut = s.txOut := rfl
@[simp] theorem rxCount_rxState : (rxCount s).rxState = s.rxState := rfl
@[simp] theorem rxCount_rxPrev : (rxCount s).rxPrev = s.rxPrev := rfl
@[simp] theorem rxCount_rxCnt : (rxCount s).rxCnt = s.rxCnt - 1#17 := rfl
@[simp] theorem rxCount_rxBits : (rxCount s).rxBits = s.rxBits := rfl
@[simp] theorem rxCount_rxShift : (rxCount s).rxShift = s.rxShift := rfl
@[simp] theorem rxCount_rxSlot : (rxCount s).rxSlot = s.rxSlot := rfl
@[simp] theorem rxCount_rxValid : (rxCount s).rxValid = s.rxValid := rfl
@[simp] theorem rxCount_rxFerr : (rxCount s).rxFerr = s.rxFerr := rfl
@[simp] theorem rxCount_driver : (rxCount s).driver = s.driver := rfl
@[simp] theorem rxCount_clockHz : (rxCount s).clockHz = s.clockHz := rfl
@[simp] theorem rxCount_rxIn : (rxCount s).rxIn = s.rxIn := rfl
@[simp] theorem rxCount_wiring : (rxCount s).wiring = s.wiring := rfl
@[simp] theorem rxCount_line : (rxCount s).line = s.line := rfl
@[simp] theorem rxCount_ticks : (rxCount s).ticks = s.ticks := rfl
@[simp] theorem rxCount_script : (rxCount s).script = s.script := rfl
@[simp] theorem rxCount_gaps : (rxCount s).gaps = s.gaps := rfl
@[simp] theorem rxCount_held : (rxCount s).held = s.held := rfl
@[simp] theorem rxCount_readValue : (rxCount s).readValue = s.readValue := rfl
@[simp] theorem rxCount_result : (rxCount s).result = s.result := rfl
@[simp] theorem rxCount_draws : (rxCount s).draws = s.draws := rfl
@[simp] theorem rxCount_ident : (rxCount s).ident = s.ident := rfl
@[simp] theorem rxCount_trace : (rxCount s).trace = s.trace := rfl

/-! ### `rxBegin` -/

@[simp] theorem rxBegin_en : (rxBegin s).en = s.en := rfl
@[simp] theorem rxBegin_txDiv : (rxBegin s).txDiv = s.txDiv := rfl
@[simp] theorem rxBegin_rxDiv : (rxBegin s).rxDiv = s.rxDiv := rfl
@[simp] theorem rxBegin_txSlot : (rxBegin s).txSlot = s.txSlot := rfl
@[simp] theorem rxBegin_txFull : (rxBegin s).txFull = s.txFull := rfl
@[simp] theorem rxBegin_txState : (rxBegin s).txState = s.txState := rfl
@[simp] theorem rxBegin_txIdx : (rxBegin s).txIdx = s.txIdx := rfl
@[simp] theorem rxBegin_txCnt : (rxBegin s).txCnt = s.txCnt := rfl
@[simp] theorem rxBegin_txOut : (rxBegin s).txOut = s.txOut := rfl
@[simp] theorem rxBegin_rxState : (rxBegin s).rxState = .sampling := rfl
@[simp] theorem rxBegin_rxPrev : (rxBegin s).rxPrev = s.rxPrev := rfl
@[simp] theorem rxBegin_rxCnt : (rxBegin s).rxCnt = firstSampleDelay s.rxDiv := rfl
@[simp] theorem rxBegin_rxBits : (rxBegin s).rxBits = 10#4 := rfl
@[simp] theorem rxBegin_rxShift : (rxBegin s).rxShift = 0#10 := rfl
@[simp] theorem rxBegin_rxSlot : (rxBegin s).rxSlot = s.rxSlot := rfl
@[simp] theorem rxBegin_rxValid : (rxBegin s).rxValid = s.rxValid := rfl
@[simp] theorem rxBegin_rxFerr : (rxBegin s).rxFerr = s.rxFerr := rfl
@[simp] theorem rxBegin_driver : (rxBegin s).driver = s.driver := rfl
@[simp] theorem rxBegin_clockHz : (rxBegin s).clockHz = s.clockHz := rfl
@[simp] theorem rxBegin_rxIn : (rxBegin s).rxIn = s.rxIn := rfl
@[simp] theorem rxBegin_wiring : (rxBegin s).wiring = s.wiring := rfl
@[simp] theorem rxBegin_line : (rxBegin s).line = s.line := rfl
@[simp] theorem rxBegin_ticks : (rxBegin s).ticks = s.ticks := rfl
@[simp] theorem rxBegin_script : (rxBegin s).script = s.script := rfl
@[simp] theorem rxBegin_gaps : (rxBegin s).gaps = s.gaps := rfl
@[simp] theorem rxBegin_held : (rxBegin s).held = s.held := rfl
@[simp] theorem rxBegin_readValue : (rxBegin s).readValue = s.readValue := rfl
@[simp] theorem rxBegin_result : (rxBegin s).result = s.result := rfl
@[simp] theorem rxBegin_draws : (rxBegin s).draws = s.draws := rfl
@[simp] theorem rxBegin_ident : (rxBegin s).ident = s.ident := rfl
@[simp] theorem rxBegin_trace : (rxBegin s).trace = s.trace := rfl

/-! ### `rxSample` -/

@[simp] theorem rxSample_en : (rxSample s).en = s.en := rfl
@[simp] theorem rxSample_txDiv : (rxSample s).txDiv = s.txDiv := rfl
@[simp] theorem rxSample_rxDiv : (rxSample s).rxDiv = s.rxDiv := rfl
@[simp] theorem rxSample_txSlot : (rxSample s).txSlot = s.txSlot := rfl
@[simp] theorem rxSample_txFull : (rxSample s).txFull = s.txFull := rfl
@[simp] theorem rxSample_txState : (rxSample s).txState = s.txState := rfl
@[simp] theorem rxSample_txIdx : (rxSample s).txIdx = s.txIdx := rfl
@[simp] theorem rxSample_txCnt : (rxSample s).txCnt = s.txCnt := rfl
@[simp] theorem rxSample_txOut : (rxSample s).txOut = s.txOut := rfl
@[simp] theorem rxSample_rxState : (rxSample s).rxState = if s.rxBits = 1#4 then .stopCheck else s.rxState := rfl
@[simp] theorem rxSample_rxPrev : (rxSample s).rxPrev = s.rxPrev := rfl
@[simp] theorem rxSample_rxCnt : (rxSample s).rxCnt = s.rxDiv.setWidth 17 := rfl
@[simp] theorem rxSample_rxBits : (rxSample s).rxBits = s.rxBits - 1#4 := rfl
@[simp] theorem rxSample_rxShift : (rxSample s).rxShift = shiftIn s.rxIn s.rxShift := rfl
@[simp] theorem rxSample_rxSlot : (rxSample s).rxSlot = s.rxSlot := rfl
@[simp] theorem rxSample_rxValid : (rxSample s).rxValid = s.rxValid := rfl
@[simp] theorem rxSample_rxFerr : (rxSample s).rxFerr = s.rxFerr := rfl
@[simp] theorem rxSample_driver : (rxSample s).driver = s.driver := rfl
@[simp] theorem rxSample_clockHz : (rxSample s).clockHz = s.clockHz := rfl
@[simp] theorem rxSample_rxIn : (rxSample s).rxIn = s.rxIn := rfl
@[simp] theorem rxSample_wiring : (rxSample s).wiring = s.wiring := rfl
@[simp] theorem rxSample_line : (rxSample s).line = s.line := rfl
@[simp] theorem rxSample_ticks : (rxSample s).ticks = s.ticks := rfl
@[simp] theorem rxSample_script : (rxSample s).script = s.script := rfl
@[simp] theorem rxSample_gaps : (rxSample s).gaps = s.gaps := rfl
@[simp] theorem rxSample_held : (rxSample s).held = s.held := rfl
@[simp] theorem rxSample_readValue : (rxSample s).readValue = s.readValue := rfl
@[simp] theorem rxSample_result : (rxSample s).result = s.result := rfl
@[simp] theorem rxSample_draws : (rxSample s).draws = s.draws := rfl
@[simp] theorem rxSample_ident : (rxSample s).ident = s.ident := rfl
@[simp] theorem rxSample_trace : (rxSample s).trace = s.trace := rfl

/-! ### `deliver` -/

@[simp] theorem deliver_en : (deliver s).en = s.en := rfl
@[simp] theorem deliver_txDiv : (deliver s).txDiv = s.txDiv := rfl
@[simp] theorem deliver_rxDiv : (deliver s).rxDiv = s.rxDiv := rfl
@[simp] theorem deliver_txSlot : (deliver s).txSlot = s.txSlot := rfl
@[simp] theorem deliver_txFull : (deliver s).txFull = s.txFull := rfl
@[simp] theorem deliver_txState : (deliver s).txState = s.txState := rfl
@[simp] theorem deliver_txIdx : (deliver s).txIdx = s.txIdx := rfl
@[simp] theorem deliver_txCnt : (deliver s).txCnt = s.txCnt := rfl
@[simp] theorem deliver_txOut : (deliver s).txOut = s.txOut := rfl
@[simp] theorem deliver_rxState : (deliver s).rxState = s.rxState := rfl
@[simp] theorem deliver_rxPrev : (deliver s).rxPrev = s.rxPrev := rfl
@[simp] theorem deliver_rxCnt : (deliver s).rxCnt = s.rxCnt := rfl
@[simp] theorem deliver_rxBits : (deliver s).rxBits = s.rxBits := rfl
@[simp] theorem deliver_rxShift : (deliver s).rxShift = s.rxShift := rfl
@[simp] theorem deliver_rxSlot : (deliver s).rxSlot = s.rxShift := rfl
@[simp] theorem deliver_rxValid : (deliver s).rxValid = true := rfl
@[simp] theorem deliver_rxFerr : (deliver s).rxFerr = s.rxFerr := rfl
@[simp] theorem deliver_driver : (deliver s).driver = s.driver := rfl
@[simp] theorem deliver_clockHz : (deliver s).clockHz = s.clockHz := rfl
@[simp] theorem deliver_rxIn : (deliver s).rxIn = s.rxIn := rfl
@[simp] theorem deliver_wiring : (deliver s).wiring = s.wiring := rfl
@[simp] theorem deliver_line : (deliver s).line = s.line := rfl
@[simp] theorem deliver_ticks : (deliver s).ticks = s.ticks := rfl
@[simp] theorem deliver_script : (deliver s).script = s.script := rfl
@[simp] theorem deliver_gaps : (deliver s).gaps = s.gaps := rfl
@[simp] theorem deliver_held : (deliver s).held = s.held := rfl
@[simp] theorem deliver_readValue : (deliver s).readValue = s.readValue := rfl
@[simp] theorem deliver_result : (deliver s).result = s.result := rfl
@[simp] theorem deliver_draws : (deliver s).draws = s.draws := rfl
@[simp] theorem deliver_ident : (deliver s).ident = s.ident := rfl
@[simp] theorem deliver_trace : (deliver s).trace = s.trace := rfl

/-! ### `rxToIdle` -/

@[simp] theorem rxToIdle_en : (rxToIdle s).en = s.en := rfl
@[simp] theorem rxToIdle_txDiv : (rxToIdle s).txDiv = s.txDiv := rfl
@[simp] theorem rxToIdle_rxDiv : (rxToIdle s).rxDiv = s.rxDiv := rfl
@[simp] theorem rxToIdle_txSlot : (rxToIdle s).txSlot = s.txSlot := rfl
@[simp] theorem rxToIdle_txFull : (rxToIdle s).txFull = s.txFull := rfl
@[simp] theorem rxToIdle_txState : (rxToIdle s).txState = s.txState := rfl
@[simp] theorem rxToIdle_txIdx : (rxToIdle s).txIdx = s.txIdx := rfl
@[simp] theorem rxToIdle_txCnt : (rxToIdle s).txCnt = s.txCnt := rfl
@[simp] theorem rxToIdle_txOut : (rxToIdle s).txOut = s.txOut := rfl
@[simp] theorem rxToIdle_rxState : (rxToIdle s).rxState = .idle := rfl
@[simp] theorem rxToIdle_rxPrev : (rxToIdle s).rxPrev = s.rxPrev := rfl
@[simp] theorem rxToIdle_rxCnt : (rxToIdle s).rxCnt = s.rxCnt := rfl
@[simp] theorem rxToIdle_rxBits : (rxToIdle s).rxBits = s.rxBits := rfl
@[simp] theorem rxToIdle_rxShift : (rxToIdle s).rxShift = s.rxShift := rfl
@[simp] theorem rxToIdle_rxSlot : (rxToIdle s).rxSlot = s.rxSlot := rfl
@[simp] theorem rxToIdle_rxValid : (rxToIdle s).rxValid = s.rxValid := rfl
@[simp] theorem rxToIdle_rxFerr : (rxToIdle s).rxFerr = s.rxFerr := rfl
@[simp] theorem rxToIdle_driver : (rxToIdle s).driver = s.driver := rfl
@[simp] theorem rxToIdle_clockHz : (rxToIdle s).clockHz = s.clockHz := rfl
@[simp] theorem rxToIdle_rxIn : (rxToIdle s).rxIn = s.rxIn := rfl
@[simp] theorem rxToIdle_wiring : (rxToIdle s).wiring = s.wiring := rfl
@[simp] theorem rxToIdle_line : (rxToIdle s).line = s.line := rfl
@[simp] theorem rxToIdle_ticks : (rxToIdle s).ticks = s.ticks := rfl
@[simp] theorem rxToIdle_script : (rxToIdle s).script = s.script := rfl
@[simp] theorem rxToIdle_gaps : (rxToIdle s).gaps = s.gaps := rfl
@[simp] theorem rxToIdle_held : (rxToIdle s).held = s.held := rfl
@[simp] theorem rxToIdle_readValue : (rxToIdle s).readValue = s.readValue := rfl
@[simp] theorem rxToIdle_result : (rxToIdle s).result = s.result := rfl
@[simp] theorem rxToIdle_draws : (rxToIdle s).draws = s.draws := rfl
@[simp] theorem rxToIdle_ident : (rxToIdle s).ident = s.ident := rfl
@[simp] theorem rxToIdle_trace : (rxToIdle s).trace = s.trace := rfl

/-! ### `raiseFramingError` -/

@[simp] theorem raiseFramingError_en : (raiseFramingError s).en = s.en := rfl
@[simp] theorem raiseFramingError_txDiv : (raiseFramingError s).txDiv = s.txDiv := rfl
@[simp] theorem raiseFramingError_rxDiv : (raiseFramingError s).rxDiv = s.rxDiv := rfl
@[simp] theorem raiseFramingError_txSlot : (raiseFramingError s).txSlot = s.txSlot := rfl
@[simp] theorem raiseFramingError_txFull : (raiseFramingError s).txFull = s.txFull := rfl
@[simp] theorem raiseFramingError_txState : (raiseFramingError s).txState = s.txState := rfl
@[simp] theorem raiseFramingError_txIdx : (raiseFramingError s).txIdx = s.txIdx := rfl
@[simp] theorem raiseFramingError_txCnt : (raiseFramingError s).txCnt = s.txCnt := rfl
@[simp] theorem raiseFramingError_txOut : (raiseFramingError s).txOut = s.txOut := rfl
@[simp] theorem raiseFramingError_rxState : (raiseFramingError s).rxState = .framingError := rfl
@[simp] theorem raiseFramingError_rxPrev : (raiseFramingError s).rxPrev = s.rxPrev := rfl
@[simp] theorem raiseFramingError_rxCnt : (raiseFramingError s).rxCnt = s.rxCnt := rfl
@[simp] theorem raiseFramingError_rxBits : (raiseFramingError s).rxBits = s.rxBits := rfl
@[simp] theorem raiseFramingError_rxShift : (raiseFramingError s).rxShift = s.rxShift := rfl
@[simp] theorem raiseFramingError_rxSlot : (raiseFramingError s).rxSlot = s.rxSlot := rfl
@[simp] theorem raiseFramingError_rxValid : (raiseFramingError s).rxValid = s.rxValid := rfl
@[simp] theorem raiseFramingError_rxFerr : (raiseFramingError s).rxFerr = true := rfl
@[simp] theorem raiseFramingError_driver : (raiseFramingError s).driver = s.driver := rfl
@[simp] theorem raiseFramingError_clockHz : (raiseFramingError s).clockHz = s.clockHz := rfl
@[simp] theorem raiseFramingError_rxIn : (raiseFramingError s).rxIn = s.rxIn := rfl
@[simp] theorem raiseFramingError_wiring : (raiseFramingError s).wiring = s.wiring := rfl
@[simp] theorem raiseFramingError_line : (raiseFramingError s).line = s.line := rfl
@[simp] theorem raiseFramingError_ticks : (raiseFramingError s).ticks = s.ticks := rfl
@[simp] theorem raiseFramingError_script : (raiseFramingError s).script = s.script := rfl
@[simp] theorem raiseFramingError_gaps : (raiseFramingError s).gaps = s.gaps := rfl
@[simp] theorem raiseFramingError_held : (raiseFramingError s).held = s.held := rfl
@[simp] theorem raiseFramingError_readValue : (raiseFramingError s).readValue = s.readValue := rfl
@[simp] theorem raiseFramingError_result : (raiseFramingError s).result = s.result := rfl
@[simp] theorem raiseFramingError_draws : (raiseFramingError s).draws = s.draws := rfl
@[simp] theorem raiseFramingError_ident : (raiseFramingError s).ident = s.ident := rfl
@[simp] theorem raiseFramingError_trace : (raiseFramingError s).trace = s.trace := rfl

/-! ### `setDriver` -/

@[simp] theorem setDriver_en (d : Driver) : (setDriver s d).en = s.en := rfl
@[simp] theorem setDriver_txDiv (d : Driver) : (setDriver s d).txDiv = s.txDiv := rfl
@[simp] theorem setDriver_rxDiv (d : Driver) : (setDriver s d).rxDiv = s.rxDiv := rfl
@[simp] theorem setDriver_txSlot (d : Driver) : (setDriver s d).txSlot = s.txSlot := rfl
@[simp] theorem setDriver_txFull (d : Driver) : (setDriver s d).txFull = s.txFull := rfl
@[simp] theorem setDriver_txState (d : Driver) : (setDriver s d).txState = s.txState := rfl
@[simp] theorem setDriver_txIdx (d : Driver) : (setDriver s d).txIdx = s.txIdx := rfl
@[simp] theorem setDriver_txCnt (d : Driver) : (setDriver s d).txCnt = s.txCnt := rfl
@[simp] theorem setDriver_txOut (d : Driver) : (setDriver s d).txOut = s.txOut := rfl
@[simp] theorem setDriver_rxState (d : Driver) : (setDriver s d).rxState = s.rxState := rfl
@[simp] theorem setDriver_rxPrev (d : Driver) : (setDriver s d).rxPrev = s.rxPrev := rfl
@[simp] theorem setDriver_rxCnt (d : Driver) : (setDriver s d).rxCnt = s.rxCnt := rfl
@[simp] theorem setDriver_rxBits (d : Driver) : (setDriver s d).rxBits = s.rxBits := rfl
@[simp] theorem setDriver_rxShift (d : Driver) : (setDriver s d).rxShift = s.rxShift := rfl
@[simp] theorem setDriver_rxSlot (d : Driver) : (setDriver s d).rxSlot = s.rxSlot := rfl
@[simp] theorem setDriver_rxValid (d : Driver) : (setDriver s d).rxValid = s.rxValid := rfl
@[simp] theorem setDriver_rxFerr (d : Driver) : (setDriver s d).rxFerr = s.rxFerr := rfl
@[simp] theorem setDriver_driver (d : Driver) : (setDriver s d).driver = some d := rfl
@[simp] theorem setDriver_clockHz (d : Driver) : (setDriver s d).clockHz = s.clockHz := rfl
@[simp] theorem setDriver_rxIn (d : Driver) : (setDriver s d).rxIn = s.rxIn := rfl
@[simp] theorem setDriver_wiring (d : Driver) : (setDriver s d).wiring = s.wiring := rfl
@[simp] theorem setDriver_line (d : Driver) : (setDriver s d).line = s.line := rfl
@[simp] theorem setDriver_ticks (d : Driver) : (setDriver s d).ticks = s.ticks := rfl
@[simp] theorem setDriver_script (d : Driver) : (setDriver s d).script = s.script := rfl
@[simp] theorem setDriver_gaps (d : Driver) : (setDriver s d).gaps = s.gaps := rfl
@[simp] theorem setDriver_held (d : Driver) : (setDriver s d).held = s.held := rfl
@[simp] theorem setDriver_readValue (d : Driver) : (setDriver s d).readValue = s.readValue := rfl
@[simp] theorem setDriver_result (d : Driver) : (setDriver s d).result = s.result := rfl
@[simp] theorem setDriver_draws (d : Driver) : (setDriver s d).draws = s.draws := rfl
@[simp] theorem setDriver_ident (d : Driver) : (setDriver s d).ident = s.ident := rfl
@[simp] theorem setDriver_trace (d : Driver) : (setDriver s d).trace = s.trace := rfl

/-! ### `beginTick` -/

@[simp] theorem beginTick_en (x : Bool) : (beginTick s x).en = s.en := rfl
@[simp] theorem beginTick_txDiv (x : Bool) : (beginTick s x).txDiv = s.txDiv := rfl
@[simp] theorem beginTick_rxDiv (x : Bool) : (beginTick s x).rxDiv = s.rxDiv := rfl
@[simp] theorem beginTick_txSlot (x : Bool) : (beginTick s x).txSlot = s.txSlot := rfl
@[simp] theorem beginTick_txFull (x : Bool) : (beginTick s x).txFull = s.txFull := rfl
@[simp] theorem beginTick_txState (x : Bool) : (beginTick s x).txState = s.txState := rfl
@[simp] theorem beginTick_txIdx (x : Bool) : (beginTick s x).txIdx = s.txIdx := rfl
@[simp] theorem beginTick_txCnt (x : Bool) : (beginTick s x).txCnt = s.txCnt := rfl
@[simp] theorem beginTick_txOut (x : Bool) : (beginTick s x).txOut = s.txOut := rfl
@[simp] theorem beginTick_rxState (x : Bool) : (beginTick s x).rxState = s.rxState := rfl
@[simp] theorem beginTick_rxPrev (x : Bool) : (beginTick s x).rxPrev = s.rxPrev := rfl
@[simp] theorem beginTick_rxCnt (x : Bool) : (beginTick s x).rxCnt = s.rxCnt := rfl
@[simp] theorem beginTick_rxBits (x : Bool) : (beginTick s x).rxBits = s.rxBits := rfl
@[simp] theorem beginTick_rxShift (x : Bool) : (beginTick s x).rxShift = s.rxShift := rfl
@[simp] theorem beginTick_rxSlot (x : Bool) : (beginTick s x).rxSlot = s.rxSlot := rfl
@[simp] theorem beginTick_rxValid (x : Bool) : (beginTick s x).rxValid = s.rxValid := rfl
@[simp] theorem beginTick_rxFerr (x : Bool) : (beginTick s x).rxFerr = s.rxFerr := rfl
@[simp] theorem beginTick_driver (x : Bool) : (beginTick s x).driver = s.driver := rfl
@[simp] theorem beginTick_clockHz (x : Bool) : (beginTick s x).clockHz = s.clockHz := rfl
@[simp] theorem beginTick_rxIn (x : Bool) : (beginTick s x).rxIn = x := rfl
@[simp] theorem beginTick_wiring (x : Bool) : (beginTick s x).wiring = s.wiring := rfl
@[simp] theorem beginTick_line (x : Bool) : (beginTick s x).line = s.line.tail := rfl
@[simp] theorem beginTick_ticks (x : Bool) : (beginTick s x).ticks = s.ticks + 1 := rfl
@[simp] theorem beginTick_script (x : Bool) : (beginTick s x).script = s.script := rfl
@[simp] theorem beginTick_gaps (x : Bool) : (beginTick s x).gaps = s.gaps := rfl
@[simp] theorem beginTick_held (x : Bool) : (beginTick s x).held = s.held := rfl
@[simp] theorem beginTick_readValue (x : Bool) : (beginTick s x).readValue = s.readValue := rfl
@[simp] theorem beginTick_result (x : Bool) : (beginTick s x).result = s.result := rfl
@[simp] theorem beginTick_draws (x : Bool) : (beginTick s x).draws = s.draws := rfl
@[simp] theorem beginTick_ident (x : Bool) : (beginTick s x).ident = s.ident := rfl
@[simp] theorem beginTick_trace (x : Bool) : (beginTick s x).trace = s.trace := rfl

/-! ### `disabledTick` -/

@[simp] theorem disabledTick_en : (disabledTick s).en = s.en := rfl
@[simp] theorem disabledTick_txDiv : (disabledTick s).txDiv = s.txDiv := rfl
@[simp] theorem disabledTick_rxDiv : (disabledTick s).rxDiv = s.rxDiv := rfl
@[simp] theorem disabledTick_txSlot : (disabledTick s).txSlot = s.txSlot := rfl
@[simp] theorem disabledTick_txFull : (disabledTick s).txFull = s.txFull := rfl
@[simp] theorem disabledTick_txState : (disabledTick s).txState = s.txState := rfl
@[simp] theorem disabledTick_txIdx : (disabledTick s).txIdx = s.txIdx := rfl
@[simp] theorem disabledTick_txCnt : (disabledTick s).txCnt = s.txCnt := rfl
@[simp] theorem disabledTick_txOut : (disabledTick s).txOut = s.txOut := rfl
@[simp] theorem disabledTick_rxState : (disabledTick s).rxState = s.rxState := rfl
@[simp] theorem disabledTick_rxPrev : (disabledTick s).rxPrev = false := rfl
@[simp] theorem disabledTick_rxCnt : (disabledTick s).rxCnt = s.rxCnt := rfl
@[simp] theorem disabledTick_rxBits : (disabledTick s).rxBits = s.rxBits := rfl
@[simp] theorem disabledTick_rxShift : (disabledTick s).rxShift = s.rxShift := rfl
@[simp] theorem disabledTick_rxSlot : (disabledTick s).rxSlot = s.rxSlot := rfl
@[simp] theorem disabledTick_rxValid : (disabledTick s).rxValid = s.rxValid := rfl
@[simp] theorem disabledTick_rxFerr : (disabledTick s).rxFerr = s.rxFerr := rfl
@[simp] theorem disabledTick_driver : (disabledTick s).driver = s.driver := rfl
@[simp] theorem disabledTick_clockHz : (disabledTick s).clockHz = s.clockHz := rfl
@[simp] theorem disabledTick_rxIn : (disabledTick s).rxIn = s.rxIn := rfl
@[simp] theorem disabledTick_wiring : (disabledTick s).wiring = s.wiring := rfl
@[simp] theorem disabledTick_line : (disabledTick s).line = s.line := rfl
@[simp] theorem disabledTick_ticks : (disabledTick s).ticks = s.ticks := rfl
@[simp] theorem disabledTick_script : (disabledTick s).script = s.script := rfl
@[simp] theorem disabledTick_gaps : (disabledTick s).gaps = s.gaps := rfl
@[simp] theorem disabledTick_held : (disabledTick s).held = s.held := rfl
@[simp] theorem disabledTick_readValue : (disabledTick s).readValue = s.readValue := rfl
@[simp] theorem disabledTick_result : (disabledTick s).result = s.result := rfl
@[simp] theorem disabledTick_draws : (disabledTick s).draws = s.draws := rfl
@[simp] theorem disabledTick_ident : (disabledTick s).ident = s.ident := rfl
@[simp] theorem disabledTick_trace : (disabledTick s).trace = s.trace := rfl

/-! ### `resetStep` -/

@[simp] theorem resetStep_en : (resetStep s).en = false := rfl
@[simp] theorem resetStep_txDiv : (resetStep s).txDiv = 0#16 := rfl
@[simp] theorem resetStep_rxDiv : (resetStep s).rxDiv = 0#16 := rfl
@[simp] theorem resetStep_txSlot : (resetStep s).txSlot = Config.anyBits s.ident 10 s.draws := rfl
@[simp] theorem resetStep_txFull : (resetStep s).txFull = false := rfl
@[simp] theorem resetStep_txState : (resetStep s).txState = .idle := rfl
@[simp] theorem resetStep_txIdx : (resetStep s).txIdx = Config.anyBits s.ident 4 (s.draws + 1) := rfl
@[simp] theorem resetStep_txCnt : (resetStep s).txCnt = Config.anyBits s.ident 16 (s.draws + 2) := rfl
@[simp] theorem resetStep_txOut : (resetStep s).txOut = true := rfl
@[simp] theorem resetStep_rxState : (resetStep s).rxState = .idle := rfl
@[simp] theorem resetStep_rxPrev : (resetStep s).rxPrev = false := rfl
@[simp] theorem resetStep_rxCnt : (resetStep s).rxCnt = Config.anyBits s.ident 17 (s.draws + 3) := rfl
@[simp] theorem resetStep_rxBits : (resetStep s).rxBits = Config.anyBits s.ident 4 (s.draws + 4) := rfl
@[simp] theorem resetStep_rxShift : (resetStep s).rxShift = Config.anyBits s.ident 10 (s.draws + 5) := rfl
@[simp] theorem resetStep_rxSlot : (resetStep s).rxSlot = Config.anyBits s.ident 10 (s.draws + 6) := rfl
@[simp] theorem resetStep_rxValid : (resetStep s).rxValid = false := rfl
@[simp] theorem resetStep_rxFerr : (resetStep s).rxFerr = false := rfl
@[simp] theorem resetStep_driver : (resetStep s).driver = s.driver := rfl
@[simp] theorem resetStep_clockHz : (resetStep s).clockHz = s.clockHz := rfl
@[simp] theorem resetStep_rxIn : (resetStep s).rxIn = s.rxIn := rfl
@[simp] theorem resetStep_wiring : (resetStep s).wiring = s.wiring := rfl
@[simp] theorem resetStep_line : (resetStep s).line = s.line := rfl
@[simp] theorem resetStep_ticks : (resetStep s).ticks = s.ticks := rfl
@[simp] theorem resetStep_script : (resetStep s).script = s.script := rfl
@[simp] theorem resetStep_gaps : (resetStep s).gaps = s.gaps := rfl
@[simp] theorem resetStep_held : (resetStep s).held = s.held := rfl
@[simp] theorem resetStep_readValue : (resetStep s).readValue = s.readValue := rfl
@[simp] theorem resetStep_result : (resetStep s).result = s.result := rfl
@[simp] theorem resetStep_draws : (resetStep s).draws = s.draws + 7 := rfl
@[simp] theorem resetStep_ident : (resetStep s).ident = s.ident := rfl
@[simp] theorem resetStep_trace : (resetStep s).trace = s.trace := rfl

/-! ### `reportResult` -/

@[simp] theorem reportResult_en : (reportResult s).en = s.en := rfl
@[simp] theorem reportResult_txDiv : (reportResult s).txDiv = s.txDiv := rfl
@[simp] theorem reportResult_rxDiv : (reportResult s).rxDiv = s.rxDiv := rfl
@[simp] theorem reportResult_txSlot : (reportResult s).txSlot = s.txSlot := rfl
@[simp] theorem reportResult_txFull : (reportResult s).txFull = s.txFull := rfl
@[simp] theorem reportResult_txState : (reportResult s).txState = s.txState := rfl
@[simp] theorem reportResult_txIdx : (reportResult s).txIdx = s.txIdx := rfl
@[simp] theorem reportResult_txCnt : (reportResult s).txCnt = s.txCnt := rfl
@[simp] theorem reportResult_txOut : (reportResult s).txOut = s.txOut := rfl
@[simp] theorem reportResult_rxState : (reportResult s).rxState = s.rxState := rfl
@[simp] theorem reportResult_rxPrev : (reportResult s).rxPrev = s.rxPrev := rfl
@[simp] theorem reportResult_rxCnt : (reportResult s).rxCnt = s.rxCnt := rfl
@[simp] theorem reportResult_rxBits : (reportResult s).rxBits = s.rxBits := rfl
@[simp] theorem reportResult_rxShift : (reportResult s).rxShift = s.rxShift := rfl
@[simp] theorem reportResult_rxSlot : (reportResult s).rxSlot = s.rxSlot := rfl
@[simp] theorem reportResult_rxValid : (reportResult s).rxValid = s.rxValid := rfl
@[simp] theorem reportResult_rxFerr : (reportResult s).rxFerr = s.rxFerr := rfl
@[simp] theorem reportResult_driver : (reportResult s).driver = s.driver := rfl
@[simp] theorem reportResult_clockHz : (reportResult s).clockHz = s.clockHz := rfl
@[simp] theorem reportResult_rxIn : (reportResult s).rxIn = s.rxIn := rfl
@[simp] theorem reportResult_wiring : (reportResult s).wiring = s.wiring := rfl
@[simp] theorem reportResult_line : (reportResult s).line = s.line := rfl
@[simp] theorem reportResult_ticks : (reportResult s).ticks = s.ticks := rfl
@[simp] theorem reportResult_script : (reportResult s).script = s.script := rfl
@[simp] theorem reportResult_gaps : (reportResult s).gaps = s.gaps := rfl
@[simp] theorem reportResult_held : (reportResult s).held = s.held := rfl
@[simp] theorem reportResult_readValue : (reportResult s).readValue = s.readValue := rfl
@[simp] theorem reportResult_result : (reportResult s).result = s.result := rfl
@[simp] theorem reportResult_draws : (reportResult s).draws = s.draws := rfl
@[simp] theorem reportResult_ident : (reportResult s).ident = s.ident := rfl
@[simp] theorem reportResult_trace : (reportResult s).trace = .record s.result :: s.trace := rfl

/-! ### `acceptWrite` -/

@[simp] theorem acceptWrite_en : (acceptWrite s).en = s.en := rfl
@[simp] theorem acceptWrite_txDiv : (acceptWrite s).txDiv = s.txDiv := rfl
@[simp] theorem acceptWrite_rxDiv : (acceptWrite s).rxDiv = s.rxDiv := rfl
@[simp] theorem acceptWrite_txSlot : (acceptWrite s).txSlot = s.txSlot := rfl
@[simp] theorem acceptWrite_txFull : (acceptWrite s).txFull = s.txFull := rfl
@[simp] theorem acceptWrite_txState : (acceptWrite s).txState = s.txState := rfl
@[simp] theorem acceptWrite_txIdx : (acceptWrite s).txIdx = s.txIdx := rfl
@[simp] theorem acceptWrite_txCnt : (acceptWrite s).txCnt = s.txCnt := rfl
@[simp] theorem acceptWrite_txOut : (acceptWrite s).txOut = s.txOut := rfl
@[simp] theorem acceptWrite_rxState : (acceptWrite s).rxState = s.rxState := rfl
@[simp] theorem acceptWrite_rxPrev : (acceptWrite s).rxPrev = s.rxPrev := rfl
@[simp] theorem acceptWrite_rxCnt : (acceptWrite s).rxCnt = s.rxCnt := rfl
@[simp] theorem acceptWrite_rxBits : (acceptWrite s).rxBits = s.rxBits := rfl
@[simp] theorem acceptWrite_rxShift : (acceptWrite s).rxShift = s.rxShift := rfl
@[simp] theorem acceptWrite_rxSlot : (acceptWrite s).rxSlot = s.rxSlot := rfl
@[simp] theorem acceptWrite_rxValid : (acceptWrite s).rxValid = s.rxValid := rfl
@[simp] theorem acceptWrite_rxFerr : (acceptWrite s).rxFerr = s.rxFerr := rfl
@[simp] theorem acceptWrite_driver : (acceptWrite s).driver = s.driver := rfl
@[simp] theorem acceptWrite_clockHz : (acceptWrite s).clockHz = s.clockHz := rfl
@[simp] theorem acceptWrite_rxIn : (acceptWrite s).rxIn = s.rxIn := rfl
@[simp] theorem acceptWrite_wiring : (acceptWrite s).wiring = s.wiring := rfl
@[simp] theorem acceptWrite_line : (acceptWrite s).line = s.line := rfl
@[simp] theorem acceptWrite_ticks : (acceptWrite s).ticks = s.ticks := rfl
@[simp] theorem acceptWrite_script : (acceptWrite s).script = s.script := rfl
@[simp] theorem acceptWrite_gaps : (acceptWrite s).gaps = s.gaps := rfl
@[simp] theorem acceptWrite_held : (acceptWrite s).held = s.held := rfl
@[simp] theorem acceptWrite_readValue : (acceptWrite s).readValue = s.readValue := rfl
@[simp] theorem acceptWrite_result : (acceptWrite s).result = s.result := rfl
@[simp] theorem acceptWrite_draws : (acceptWrite s).draws = s.draws := rfl
@[simp] theorem acceptWrite_ident : (acceptWrite s).ident = s.ident := rfl
@[simp] theorem acceptWrite_trace : (acceptWrite s).trace = .accepted :: s.trace := rfl

/-! ### `endTick` -/

@[simp] theorem endTick_en : (endTick s).en = s.en := rfl
@[simp] theorem endTick_txDiv : (endTick s).txDiv = s.txDiv := rfl
@[simp] theorem endTick_rxDiv : (endTick s).rxDiv = s.rxDiv := rfl
@[simp] theorem endTick_txSlot : (endTick s).txSlot = s.txSlot := rfl
@[simp] theorem endTick_txFull : (endTick s).txFull = s.txFull := rfl
@[simp] theorem endTick_txState : (endTick s).txState = s.txState := rfl
@[simp] theorem endTick_txIdx : (endTick s).txIdx = s.txIdx := rfl
@[simp] theorem endTick_txCnt : (endTick s).txCnt = s.txCnt := rfl
@[simp] theorem endTick_txOut : (endTick s).txOut = s.txOut := rfl
@[simp] theorem endTick_rxState : (endTick s).rxState = s.rxState := rfl
@[simp] theorem endTick_rxPrev : (endTick s).rxPrev = s.rxPrev := rfl
@[simp] theorem endTick_rxCnt : (endTick s).rxCnt = s.rxCnt := rfl
@[simp] theorem endTick_rxBits : (endTick s).rxBits = s.rxBits := rfl
@[simp] theorem endTick_rxShift : (endTick s).rxShift = s.rxShift := rfl
@[simp] theorem endTick_rxSlot : (endTick s).rxSlot = s.rxSlot := rfl
@[simp] theorem endTick_rxValid : (endTick s).rxValid = s.rxValid := rfl
@[simp] theorem endTick_rxFerr : (endTick s).rxFerr = s.rxFerr := rfl
@[simp] theorem endTick_driver : (endTick s).driver = s.driver := rfl
@[simp] theorem endTick_clockHz : (endTick s).clockHz = s.clockHz := rfl
@[simp] theorem endTick_rxIn : (endTick s).rxIn = s.rxIn := rfl
@[simp] theorem endTick_wiring : (endTick s).wiring = s.wiring := rfl
@[simp] theorem endTick_line : (endTick s).line = s.line := rfl
@[simp] theorem endTick_ticks : (endTick s).ticks = s.ticks := rfl
@[simp] theorem endTick_script : (endTick s).script = s.script := rfl
@[simp] theorem endTick_gaps : (endTick s).gaps = s.gaps := rfl
@[simp] theorem endTick_held : (endTick s).held = s.held := rfl
@[simp] theorem endTick_readValue : (endTick s).readValue = s.readValue := rfl
@[simp] theorem endTick_result : (endTick s).result = s.result := rfl
@[simp] theorem endTick_draws : (endTick s).draws = s.draws := rfl
@[simp] theorem endTick_ident : (endTick s).ident = s.ident := rfl
@[simp] theorem endTick_trace : (endTick s).trace = .level s.txOut :: s.trace := rfl

end Sys2Proof.Machine
end

