-- ==== Sys2Proof/Laws/Ops.lean ====
section
/-! SUPPORT. What each shared operation can do, said once: sequencing, the host accesses, each engine's transition (the
tables of R155 and R190), one tick. -/

namespace Sys2Proof.Machine

/-! ### Sequencing -/

@[simp] theorem andThen_next (s : State) (f : State → Result) : andThen (.next s) f = f s := rfl
@[simp] theorem andThen_fault (e : Fault) (f : State → Result) : andThen (.fault e) f = .fault e := rfl
@[simp] theorem andThen_refused (e : Refusal) (f : State → Result) : andThen (.refused e) f = .refused e := rfl

/-- A sequence answers a next state exactly through a next state of its first part. -/
theorem andThen_eq_next {r : Result} {f : State → Result} {t : State} :
    andThen r f = .next t ↔ ∃ s, r = .next s ∧ f s = .next t := by
  cases r <;> simp

theorem andThen_assoc (r : Result) (f g : State → Result) :
    andThen (andThen r f) g = andThen r (fun s => andThen (f s) g) := by
  cases r <;> rfl

/-- A guarded transition answers a next state exactly where it is selected. -/
theorem whenSelected_eq_next {c : Bool} {s t : State} : whenSelected c s = .next t ↔ c = true ∧ s = t := by
  cases c <;> simp [whenSelected]

/-- The common part of the four phases of `T_SHIFT` (R144). -/
theorem txHoldBit_cases (s e : State) :
    (1 < s.txCnt.toNat ∧ txHoldBit s e = txCount s) ∨ (s.txCnt.toNat ≤ 1 ∧ txHoldBit s e = e) := by
  unfold txHoldBit
  split
  · exact .inl ⟨by assumption, rfl⟩
  · exact .inr ⟨by omega, rfl⟩

/-! ### Host accesses -/

theorem execWrTxdata_next {v : Reg} {s t : State} (h : execWrTxdata v s = .next t) :
    s.en = true ∧ txWordOk v = true ∧
      ((s.txFull = true ∧ t = holdWrite s v) ∨ (s.txFull = false ∧ t = acceptWord s v)) := by
  unfold execWrTxdata at h
  split at h
  · cases h
  split at h
  · cases h
  split at h <;> cases h <;> simp_all

theorem execWrStatus_next {v : Reg} {s t : State} (h : execWrStatus v s = .next t) :
    statusWriteOk v = true ∧
      ((v.getLsbD 2 = true ∧ t = acceptWrite (clearFerr s)) ∨ (v.getLsbD 2 = false ∧ t = acceptWrite s)) := by
  unfold execWrStatus at h
  split at h
  · cases h
  cases hv : v.getLsbD 2 <;> cases h <;> simp_all

theorem execWrCtrl_next {v : Reg} {s t : State} (h : execWrCtrl v s = .next t) :
    (t = acceptWrite s ∧ s.en = v.getLsbD 0) ∨
    (t = acceptWrite (setEn s) ∧ s.en = false ∧ v.getLsbD 0 = true ∧ divisorsLegal s = true) ∨
    (t = acceptWrite (clearEn s) ∧ s.en = true ∧ v.getLsbD 0 = false ∧ engineIdle s = true) := by
  unfold execWrCtrl at h
  split at h
  · cases h
  cases hv : v.getLsbD 0 <;> cases he : s.en <;> simp only [hv, he] at h
  · cases h; simp
  · cases hi : engineIdle s <;> simp [hi] at h
    simp [h]
  · cases hd : divisorsLegal s <;> simp [hd] at h
    simp [h]
  · cases h; simp

theorem execWrTxdiv_next {v : Reg} {s t : State} (h : execWrTxdiv v s = .next t) :
    s.en = false ∧ t = acceptWrite { s with txDiv := v } := by
  unfold execWrTxdiv at h
  split at h <;> cases h
  simp_all

theorem execWrRxdiv_next {v : Reg} {s t : State} (h : execWrRxdiv v s = .next t) :
    s.en = false ∧ t = acceptWrite { s with rxDiv := v } := by
  unfold execWrRxdiv at h
  split at h <;> cases h
  simp_all

theorem execRdRxdata_next {s t : State} (h : execRdRxdata s = .next t) :
    (s.rxValid = true ∧ t = popSlot (returnRead s (s.rxSlot.setWidth 16))) ∨ (s.rxValid = false ∧ t = returnAny s) := by
  unfold execRdRxdata at h
  split at h <;> cases h <;> simp_all

/-! ### The driver's poll -/

/-- The bits of `STATUS` that `receive` tests (R222, R236). -/
theorem statusWord_flags (s : State) :
    (statusWord s).getLsbD 1 = s.rxValid ∧ (statusWord s).getLsbD 2 = s.rxFerr := by
  unfold statusWord
  generalize rxBusy s = a, s.rxFerr = b, s.rxValid = c, s.txFull = d
  cases a <;> cases b <;> cases c <;> cases d <;> decide

/-- A poll reads `STATUS`, and then clears a latched framing error, or pulls the waiting frame, or is over (R222). -/
theorem pollReceiver_eq {s : State} {d : Driver} (h : s.driver = some d) :
    pollReceiver s =
      if s.rxFerr then
        andThen (nextAccess (execWrStatus 0x0004#16) (returnRead s (statusWord s))) fun t => .next (raiseDriverError t d)
      else if s.rxValid then
        andThen (nextAccess execRdRxdata (returnRead s (statusWord s))) fun t => .next (acceptFrame d t.readValue t)
      else .next (returnNothing (returnRead s (statusWord s))) := by
  simp only [pollReceiver, h, execRdStatus, andThen_next, returnRead_readValue, statusWord_flags]

/-! ### The engines at a tick -/

/-- The transition the transmit engine's code selects in `T_IDLE` (R104). -/
theorem decode_txCode_idle {s : State} (h : s.txState = .idle) : decode (.tx (txCode s)) = .ok .txIdle := by
  have all : ∀ i : BitVec 4, decodeTx (0#1 ++ i) = .ok .txIdle := by decide
  simpa [decode, txCode, h, txStateCode] using all s.txIdx

/-- The transition the transmit engine's code selects in `T_SHIFT` (R104). -/
theorem decode_txCode_shift {s : State} (h : s.txState = .shift) :
    decode (.tx (txCode s)) =
      if s.txIdx = 0#4 then .ok .txStart else if s.txIdx.toNat ≤ 9 then .ok (.txData s.txIdx)
      else if s.txIdx = 10#4 then .ok .txParity else if s.txIdx = 11#4 then .ok .txStop
      else .error .txCodeUnreachable := by
  have all : ∀ i : BitVec 4, decodeTx (1#1 ++ i) =
      if i = 0#4 then .ok .txStart else if i.toNat ≤ 9 then .ok (.txData i)
      else if i = 10#4 then .ok .txParity else if i = 11#4 then .ok .txStop
      else .error .txCodeUnreachable := by decide
  simpa only [decode, txCode, h, txStateCode] using all s.txIdx

/-- A phase of `T_SHIFT` that is not the last: count, or put the next wire bit on the line. -/
theorem txPhase_next {s t : State} {c : Bool} {i : BitVec 4}
    (h : whenSelected c (txHoldBit s (txEmit s i)) = .next t) :
    c = true ∧ ((1 < s.txCnt.toNat ∧ t = txCount s) ∨ (s.txCnt.toNat ≤ 1 ∧ t = txEmit s i)) := by
  obtain ⟨hc, rfl⟩ := whenSelected_eq_next.mp h
  exact ⟨hc, txHoldBit_cases s (txEmit s i)⟩

/-- What the transmit engine can do at a tick with `EN = 1`: the rows of R155. -/
theorem txTick_cases {s t : State} (h : txTick s = .next t) :
    s.en = true ∧
    ((s.txState = .idle ∧ s.txFull = false ∧ t = s) ∨
     (s.txState = .idle ∧ s.txFull = true ∧ t = txBegin s) ∨
     (s.txState = .shift ∧ s.txIdx.toNat ≤ 11 ∧ 1 < s.txCnt.toNat ∧ t = txCount s) ∨
     (s.txState = .shift ∧ s.txIdx.toNat ≤ 10 ∧ s.txCnt.toNat ≤ 1 ∧ t = txEmit s (s.txIdx + 1#4)) ∨
     (s.txState = .shift ∧ s.txIdx = 11#4 ∧ s.txCnt.toNat ≤ 1 ∧ t = txFinish s)) := by
  unfold txTick runCode at h
  cases hs : s.txState with
  | idle =>
    simp only [decode_txCode_idle hs, engineExec, execTxIdle, whenSelected_eq_next, hs] at h
    obtain ⟨h1, h2⟩ := h
    cases hf : s.txFull <;> simp_all
  | shift =>
    rw [decode_txCode_shift hs] at h
    split_ifs at h with h0 h9 h10 h11
    · obtain ⟨hc, hx⟩ := txPhase_next (i := 1#4) h
      have hen : s.en = true := by simp_all [txAt]
      simp_all
    · obtain ⟨hc, hx⟩ := txPhase_next (i := s.txIdx + 1#4) h
      have hen : s.en = true := by simp_all [txAt]
      refine ⟨hen, .inr (.inr ?_)⟩
      rcases hx with ⟨hk, rfl⟩ | ⟨hk, rfl⟩
      · exact .inl ⟨rfl, by omega, hk, rfl⟩
      · exact .inr (.inl ⟨rfl, by omega, hk, rfl⟩)
    · obtain ⟨hc, hx⟩ := txPhase_next (i := 11#4) h
      have hen : s.en = true := by simp_all [txAt]
      simp_all
    · obtain ⟨hc, hx⟩ := whenSelected_eq_next.mp h
      have hen : s.en = true := by simp_all [txAt]
      rcases txHoldBit_cases s (txFinish s) with ⟨hk, he⟩ | ⟨hk, he⟩ <;> simp_all

/-- What the receive engine can do at a tick with `EN = 1` and input `s.rxIn`: the rows of R190. -/
theorem rxTick_cases {s t : State} (h : rxTick s = .next t) :
    s.en = true ∧
    ((s.rxState = .idle ∧ s.rxPrev = true ∧ s.rxIn = false ∧ t = rxLatch (rxBegin s)) ∨
     (s.rxState = .idle ∧ (s.rxPrev = false ∨ s.rxIn = true) ∧ t = rxLatch s) ∨
     (s.rxState = .sampling ∧ 1 < s.rxCnt.toNat ∧ t = rxLatch (rxCount s)) ∨
     (s.rxState = .sampling ∧ s.rxCnt = 1#17 ∧ t = rxLatch (rxSample s)) ∨
     (s.rxState = .stopCheck ∧ 1 < s.rxCnt.toNat ∧ t = rxLatch (rxCount s)) ∨
     (s.rxState = .stopCheck ∧ s.rxCnt = 1#17 ∧ s.rxIn = true ∧ t = rxLatch (rxToIdle (deliver s))) ∨
     (s.rxState = .stopCheck ∧ s.rxCnt = 1#17 ∧ s.rxIn = false ∧ t = rxLatch (raiseFramingError s)) ∨
     (s.rxState = .framingError ∧ s.rxIn = true ∧ t = rxLatch (rxToIdle s)) ∨
     (s.rxState = .framingError ∧ s.rxIn = false ∧ t = rxLatch s)) := by
  unfold rxTick runCode at h
  cases hs : s.rxState with
  | idle =>
    simp only [decode, decodeRx, hs, rxStateCode, engineExec, execRxIdle, whenSelected_eq_next, rxAt] at h
    obtain ⟨h1, h2⟩ := h
    cases hp : s.rxPrev <;> cases hx : s.rxIn <;> simp_all
  | sampling =>
    simp only [decode, decodeRx, hs, rxStateCode] at h
    by_cases h0 : s.rxCnt = 0#17
    · simp [h0] at h
    · by_cases h1 : s.rxCnt = 1#17
      · simp [h1, engineExec, execRxSamplingSample, whenSelected_eq_next, rxAt, hs] at h
        simp_all
      · simp [h0, h1, engineExec, execRxSamplingCount, whenSelected_eq_next, rxAt, hs] at h
        simp_all
  | stopCheck =>
    simp only [decode, decodeRx, hs, rxStateCode] at h
    by_cases h0 : s.rxCnt = 0#17
    · simp [h0] at h
    · by_cases h1 : s.rxCnt = 1#17
      · cases hx : s.rxIn
        · simp [h1, hx, engineExec, execRxStopCheckLow, whenSelected_eq_next, rxAt, hs] at h
          simp_all
        · simp [h1, hx, engineExec, execRxStopCheckHigh, stopHighSelected, whenSelected_eq_next, rxAt, hs] at h
          simp_all
      · simp [h0, h1, engineExec, execRxStopCheckCount, whenSelected_eq_next, rxAt, hs] at h
        simp_all
  | framingError =>
    have hd : decode (.rx (rxStateCode s.rxState) s.rxCnt s.rxIn) = .ok .rxFramingError := by rw [hs]; rfl
    simp only [hd, engineExec, execRxFramingError, whenSelected_eq_next, rxAt] at h
    obtain ⟨h1, h2⟩ := h
    cases hx : s.rxIn <;> simp_all

/-- What a tick can do: with `EN = 1` one transition of each engine, with `EN = 0` only `rx_prev <- 0`; and then `tx_out`
is seen. -/
theorem tickAt_cases {x : Bool} {s t : State} (h : tickAt x s = .next t) :
    ∃ v, t = endTick v ∧
      ((s.en = true ∧ ∃ u, txTick (beginTick s x) = .next u ∧ rxTick u = .next v) ∨
       (s.en = false ∧ v = disabledTick (beginTick s x))) := by
  obtain ⟨v, hv, h⟩ := andThen_eq_next.mp h
  cases h
  refine ⟨v, rfl, ?_⟩
  cases he : s.en
  · simp only [beginTick_en, he, Bool.false_eq_true, ↓reduceIte] at hv
    cases hv; exact .inr ⟨rfl, rfl⟩
  · simp only [beginTick_en, he, ↓reduceIte] at hv
    exact .inl ⟨rfl, andThen_eq_next.mp hv⟩

/-- What no tick changes, and what every tick does beside the engines: it is counted, and `tx_out` is seen. -/
theorem tickAt_frame {x : Bool} {s t : State} (h : tickAt x s = .next t) :
    t.en = s.en ∧ t.txDiv = s.txDiv ∧ t.rxDiv = s.rxDiv ∧ t.txSlot = s.txSlot ∧ t.driver = s.driver ∧
    t.clockHz = s.clockHz ∧ t.ident = s.ident ∧ t.wiring = s.wiring ∧ t.script = s.script ∧ t.gaps = s.gaps ∧
    t.held = s.held ∧ t.readValue = s.readValue ∧ t.result = s.result ∧ t.draws = s.draws ∧
    t.rxIn = x ∧ t.line = s.line.tail ∧ t.ticks = s.ticks + 1 ∧ t.trace = .level t.txOut :: s.trace := by
  obtain ⟨v, rfl, ⟨_, u, h1, h2⟩ | ⟨_, rfl⟩⟩ := tickAt_cases h
  · obtain ⟨-, h1⟩ := txTick_cases h1
    obtain ⟨-, h2⟩ := rxTick_cases h2
    rcases h1 with ⟨_, _, rfl⟩ | ⟨_, _, rfl⟩ | ⟨_, _, _, rfl⟩ | ⟨_, _, _, rfl⟩ | ⟨_, _, _, rfl⟩ <;>
      rcases h2 with ⟨_, _, _, rfl⟩ | ⟨_, _, rfl⟩ | ⟨_, _, rfl⟩ | ⟨_, _, rfl⟩ | ⟨_, _, rfl⟩ | ⟨_, _, _, rfl⟩ |
        ⟨_, _, _, rfl⟩ | ⟨_, _, rfl⟩ | ⟨_, _, rfl⟩ <;> simp
  · simp

end Sys2Proof.Machine
end

