-- ==== Sys2Proof/Laws/Keep.lean ====
section
/-! SUPPORT. One induction for every invariant: a property kept by a tick, by the reset step, by each update a host
access or a driver operation makes, and blind to the script and the gaps, is kept by every step. -/

namespace Sys2Proof.Machine

/-- `P` is kept by everything a step is made of. -/
structure Kept (P : State → Prop) : Prop where
  tick : ∀ {x s t}, P s → tickAt x s = .next t → P t
  reset : ∀ {s}, P s → P (resetStep s)
  read : ∀ {s} v, P s → P (returnRead s v)
  readAny : ∀ {s}, P s → P (returnAny s)
  pop : ∀ {s}, P s → P (popSlot s)
  clearFerr : ∀ {s}, P s → P (clearFerr s)
  setEn : ∀ {s}, P s → s.en = false → divisorsLegal s = true → P (setEn s)
  clearEn : ∀ {s}, P s → s.en = true → engineIdle s = true → P (clearEn s)
  hold : ∀ {s} v, P s → s.en = true → s.txFull = true → P (holdWrite s v)
  accept : ∀ {s} v, P s → s.en = true → s.txFull = false → P (acceptWord s v)
  txDiv : ∀ {s} v, P s → s.en = false → P { s with txDiv := v }
  rxDiv : ∀ {s} v, P s → s.en = false → P { s with rxDiv := v }
  accepted : ∀ {s}, P s → P (acceptWrite s)
  reported : ∀ {s}, P s → P (reportResult s)
  driver : ∀ {s} d, P s → P (setDriver s d)
  result : ∀ {s} r, P s → P (returnResult s r)
  plan : ∀ {s} l g, P s → P { s with script := l, gaps := g }

namespace Kept

variable {P : State → Prop} (K : Kept P) {s t : State}
include K

theorem script (l : List Event) (hP : P s) : P { s with script := l } := K.plan l s.gaps hP

theorem gaps (g : List (List Lull)) (hP : P s) : P { s with gaps := g } := K.plan s.script g hP

theorem ticksFor : ∀ (n : Nat) {s t : State}, P s → Machine.ticksFor n s = .next t → P t
  | 0, _, _, hP, h => by cases h; exact hP
  | n + 1, _, _, hP, h => by
    obtain ⟨u, hu, hn⟩ := andThen_eq_next.mp h
    exact ticksFor n (K.tick hP hu) hn

theorem runLull : ∀ (l : List Lull) {s t : State}, P s → Machine.runLull l s = .next t → P t
  | [], _, _, hP, h => by cases h; exact hP
  | .tick :: l, _, _, hP, h => by
    obtain ⟨u, hu, hn⟩ := andThen_eq_next.mp h
    exact runLull l (K.tick hP hu) hn
  | .reset :: l, _, _, hP, h => runLull l (K.reset hP) h

theorem elapse (hP : P s) (h : Machine.elapse s = .next t) : P t := by
  unfold Machine.elapse at h
  split at h
  · cases h; exact hP
  · exact K.runLull _ (K.gaps _ hP) h

theorem nextAccess {f : State → Result} (hf : ∀ {u v}, P u → f u = .next v → P v) (hP : P s)
    (h : Machine.nextAccess f s = .next t) : P t := by
  obtain ⟨u, hu, hv⟩ := andThen_eq_next.mp h
  exact hf (K.elapse hP hu) hv

theorem wrTxdata {v} (hP : P s) (h : execWrTxdata v s = .next t) : P t := by
  obtain ⟨he, -, ⟨hf, rfl⟩ | ⟨hf, rfl⟩⟩ := execWrTxdata_next h
  · exact K.hold v hP he hf
  · exact K.accept v hP he hf

theorem wrStatus {v} (hP : P s) (h : execWrStatus v s = .next t) : P t := by
  obtain ⟨-, ⟨-, rfl⟩ | ⟨-, rfl⟩⟩ := execWrStatus_next h
  exacts [K.accepted (K.clearFerr hP), K.accepted hP]

theorem wrCtrl {v} (hP : P s) (h : execWrCtrl v s = .next t) : P t := by
  obtain ⟨rfl, -⟩ | ⟨rfl, he, -, hd⟩ | ⟨rfl, he, -, hi⟩ := execWrCtrl_next h
  exacts [K.accepted hP, K.accepted (K.setEn hP he hd), K.accepted (K.clearEn hP he hi)]

theorem wrTxdiv {v} (hP : P s) (h : execWrTxdiv v s = .next t) : P t := by
  obtain ⟨he, rfl⟩ := execWrTxdiv_next h
  exact K.accepted (K.txDiv v hP he)

theorem wrRxdiv {v} (hP : P s) (h : execWrRxdiv v s = .next t) : P t := by
  obtain ⟨he, rfl⟩ := execWrRxdiv_next h
  exact K.accepted (K.rxDiv v hP he)

theorem rdRxdata (hP : P s) (h : execRdRxdata s = .next t) : P t := by
  obtain ⟨-, rfl⟩ | ⟨-, rfl⟩ := execRdRxdata_next h
  exacts [K.pop (K.read _ hP), K.readAny hP]

theorem rdStatus (hP : P s) (h : execRdStatus s = .next t) : P t := by
  cases h; exact K.read _ hP

theorem configureAccesses {c} (hP : P s) (h : Machine.configureAccesses c s = .next t) : P t := by
  obtain ⟨s1, h1, h⟩ := andThen_eq_next.mp h
  cases h1
  replace hP := K.read (ctrlWord s) hP
  obtain ⟨s2, h2, h⟩ := andThen_eq_next.mp h
  replace hP : P s2 := by
    split at h2
    · exact K.nextAccess K.wrCtrl hP h2
    · cases h2; exact hP
  obtain ⟨s3, h3, h⟩ := andThen_eq_next.mp h
  replace hP := K.nextAccess K.wrTxdiv hP h3
  obtain ⟨s4, h4, h⟩ := andThen_eq_next.mp h
  replace hP := K.nextAccess K.wrRxdiv hP h4
  obtain ⟨s5, h5, h⟩ := andThen_eq_next.mp h
  replace hP := K.nextAccess K.rdStatus hP h5
  obtain ⟨s6, h6, h⟩ := andThen_eq_next.mp h
  replace hP : P s6 := by
    split at h6
    · exact K.nextAccess K.rdRxdata hP h6
    · cases h6; exact hP
  obtain ⟨s7, h7, h⟩ := andThen_eq_next.mp h
  replace hP := K.nextAccess K.wrStatus hP h7
  exact K.nextAccess K.wrCtrl hP h

theorem configure {baud mode own} (hP : P s) (h : execConfigure baud mode own s = .next t) : P t := by
  unfold execConfigure at h
  split at h
  · cases h
  split at h
  · cases h
  dsimp only at h
  split at h
  · cases h
  obtain ⟨u, hu, h⟩ := andThen_eq_next.mp h
  cases h
  exact K.driver _ (K.configureAccesses hP hu)

theorem sendFrame {a n} (hP : P s) (h : Machine.sendFrame a n s = .next t) : P t := by
  unfold Machine.sendFrame at h
  split at h
  · cases h
  · exact K.wrTxdata hP h

theorem raiseDriverError {d} (hP : P s) : P (Machine.raiseDriverError s d) := K.result _ (K.driver _ hP)

theorem acceptFrame {d w} (hP : P s) : P (Machine.acceptFrame d w s) := by
  unfold Machine.acceptFrame
  split
  · exact K.raiseDriverError hP
  split
  · exact K.result _ (K.driver _ hP)
  split
  · exact K.result _ (K.driver _ hP)
  · exact K.result _ (K.driver _ hP)

theorem pollReceiver (hP : P s) (h : Machine.pollReceiver s = .next t) : P t := by
  unfold Machine.pollReceiver at h
  split at h
  · cases h
  obtain ⟨s1, h1, h⟩ := andThen_eq_next.mp h
  replace hP := K.rdStatus hP h1
  split at h
  · obtain ⟨s2, h2, h⟩ := andThen_eq_next.mp h
    replace hP := K.nextAccess K.wrStatus hP h2
    cases h; exact K.raiseDriverError hP
  split at h
  · obtain ⟨s2, h2, h⟩ := andThen_eq_next.mp h
    replace hP := K.nextAccess K.rdRxdata hP h2
    cases h; exact K.acceptFrame hP
  · cases h; exact K.result _ hP

theorem receive (hP : P s) (h : execReceive s = .next t) : P t := by
  obtain ⟨u, hu, h⟩ := andThen_eq_next.mp h
  cases h
  exact K.reported (K.pollReceiver hP hu)

/-- A host access or driver operation keeps `P`, with whatever falls between its accesses. -/
theorem fetched_host {cmd} (hP : P s) (h : fetched (.host cmd) s = .next t) : P t := by
  simp only [fetched, decode] at h
  cases hd : decodeHost cmd <;> rw [hd] at h
  case wrTxdata v => exact K.wrTxdata hP h
  case wrStatus v => exact K.wrStatus hP h
  case wrCtrl v => exact K.wrCtrl hP h
  case wrTxdiv v => exact K.wrTxdiv hP h
  case wrRxdiv v => exact K.wrRxdiv hP h
  case rdRxdata => exact K.rdRxdata hP h
  case rdStatus | rdCtrl | rdTxdiv | rdRxdiv => cases h; exact K.read _ hP
  case rdTxdata | rdRsvd6 | rdRsvd7 | wrRxdata | wrRsvd6 | wrRsvd7 => cases h
  all_goals (unfold decodeHost at hd; dsimp only at hd; split at hd <;> cases hd)

theorem fetched_call {c} (hP : P s) (h : fetched (.call c) s = .next t) : P t := by
  cases c with
  | configure baud mode own => exact K.configure hP h
  | send a n => exact K.sendFrame hP h
  | sendAddress n => exact K.sendFrame hP h
  | sendData n => exact K.sendFrame hP h
  | receive => exact K.receive hP h

theorem awaitFrame {rest} (hP : P s) (h : Machine.awaitFrame s rest = .next t) : P t := by
  obtain ⟨u, hu, h⟩ := andThen_eq_next.mp h
  replace hP := K.pollReceiver (K.script rest hP) hu
  split at h
  · cases h; exact K.reported hP
  · cases h
    exact K.plan _ _ hP

/-- Every step keeps `P`. -/
theorem step (hP : P s) (h : Machine.step s = .next t) : P t := by
  unfold Machine.step turn at h
  split at h
  · unfold scriptTurn at h
    split at h
    · exact K.tick hP h
    · exact K.tick (K.script _ hP) h
    · cases h; exact K.reset (K.script _ hP)
    · exact K.fetched_host (K.script _ hP) h
    · exact K.fetched_call (K.script _ hP) h
    · exact K.awaitFrame hP h
  · unfold heldTurn at h
    split at h
    · cases h; exact K.reset (K.script _ hP)
    · split at h
      · exact K.tick (K.script _ hP) h
      · exact K.wrTxdata hP h
    all_goals
      split at h
      · exact K.tick hP h
      · exact K.wrTxdata hP h

end Kept

end Sys2Proof.Machine
end

