-- ==== Sys2Proof/Laws/PerInstr.lean ====
section
/-! SUPPORT. A statement for every operation, one lemma per constructor: the width of its code is the `width` column of
its row in `opcode_table.json`. -/

namespace Sys2Proof.Laws

/-- How many bits the table gives a code: 20 for HOSTOP, 5 for TXFSM, 2 for RXFSM (the counter and the level are
conditions beside the code, R105), none for a driver call. -/
def codeWidth : Code → Nat
  | .host _ => 20
  | .tx _ => 5
  | .rx _ _ _ => 2
  | .call _ => 0

/-- The `width` column of the operation's row. -/
def rowWidth : Instr → Nat
  | .rdTxdata => 20
  | .rdRxdata => 20
  | .rdStatus => 20
  | .rdCtrl => 20
  | .rdTxdiv => 20
  | .rdRxdiv => 20
  | .rdRsvd6 => 20
  | .rdRsvd7 => 20
  | .wrTxdata _ => 20
  | .wrRxdata _ => 20
  | .wrStatus _ => 20
  | .wrCtrl _ => 20
  | .wrTxdiv _ => 20
  | .wrRxdiv _ => 20
  | .wrRsvd6 _ => 20
  | .wrRsvd7 _ => 20
  | .txIdle => 5
  | .txStart => 5
  | .txData _ => 5
  | .txParity => 5
  | .txStop => 5
  | .rxIdle => 2
  | .rxSamplingCount => 2
  | .rxSamplingSample => 2
  | .rxStopCheckCount => 2
  | .rxStopCheckHigh => 2
  | .rxDeliver => 2
  | .rxStopCheckLow => 2
  | .rxFramingError => 2
  | .configure _ _ _ => 0
  | .send _ _ => 0
  | .sendAddress _ => 0
  | .sendData _ => 0
  | .receive => 0

/-- The operation's code has the width of its row. -/
def Width.Statement (i : Instr) : Prop := codeWidth (encode i) = rowWidth i

theorem Width.rdTxdata : Width.Statement .rdTxdata := rfl
theorem Width.rdRxdata : Width.Statement .rdRxdata := rfl
theorem Width.rdStatus : Width.Statement .rdStatus := rfl
theorem Width.rdCtrl : Width.Statement .rdCtrl := rfl
theorem Width.rdTxdiv : Width.Statement .rdTxdiv := rfl
theorem Width.rdRxdiv : Width.Statement .rdRxdiv := rfl
theorem Width.rdRsvd6 : Width.Statement .rdRsvd6 := rfl
theorem Width.rdRsvd7 : Width.Statement .rdRsvd7 := rfl
theorem Width.wrTxdata (v : Reg) : Width.Statement (.wrTxdata v) := rfl
theorem Width.wrRxdata (v : Reg) : Width.Statement (.wrRxdata v) := rfl
theorem Width.wrStatus (v : Reg) : Width.Statement (.wrStatus v) := rfl
theorem Width.wrCtrl (v : Reg) : Width.Statement (.wrCtrl v) := rfl
theorem Width.wrTxdiv (v : Reg) : Width.Statement (.wrTxdiv v) := rfl
theorem Width.wrRxdiv (v : Reg) : Width.Statement (.wrRxdiv v) := rfl
theorem Width.wrRsvd6 (v : Reg) : Width.Statement (.wrRsvd6 v) := rfl
theorem Width.wrRsvd7 (v : Reg) : Width.Statement (.wrRsvd7 v) := rfl
theorem Width.txIdle : Width.Statement .txIdle := rfl
theorem Width.txStart : Width.Statement .txStart := rfl
theorem Width.txData (idx : BitVec 4) : Width.Statement (.txData idx) := rfl
theorem Width.txParity : Width.Statement .txParity := rfl
theorem Width.txStop : Width.Statement .txStop := rfl
theorem Width.rxIdle : Width.Statement .rxIdle := rfl
theorem Width.rxSamplingCount : Width.Statement .rxSamplingCount := rfl
theorem Width.rxSamplingSample : Width.Statement .rxSamplingSample := rfl
theorem Width.rxStopCheckCount : Width.Statement .rxStopCheckCount := rfl
theorem Width.rxStopCheckHigh : Width.Statement .rxStopCheckHigh := rfl
theorem Width.rxDeliver : Width.Statement .rxDeliver := rfl
theorem Width.rxStopCheckLow : Width.Statement .rxStopCheckLow := rfl
theorem Width.rxFramingError : Width.Statement .rxFramingError := rfl
theorem Width.configure (baud : Nat) (mode : BitVec 2) (own : Byte) : Width.Statement (.configure baud mode own) := rfl
theorem Width.send (isAddress : Bool) (data : Nat) : Width.Statement (.send isAddress data) := rfl
theorem Width.sendAddress (addr : Nat) : Width.Statement (.sendAddress addr) := rfl
theorem Width.sendData (data : Nat) : Width.Statement (.sendData data) := rfl
theorem Width.receive : Width.Statement .receive := rfl

end Sys2Proof.Laws
end

