-- ==== Sys2Proof/Laws/Wire.lean ====
section
/-! SUPPORT. What a tick of several instances can do: each makes its own tick, at the level its line has. -/

namespace Sys2Proof.Machine

/-- A tick of a pair is a tick of each, at the level the other held. -/
theorem pairTick_next {p q : Pair} (h : pairTick p = some q) :
    tickAt p.b.txOut p.a = .next q.a ∧ tickAt p.a.txOut p.b = .next q.b := by
  unfold pairTick at h
  split at h
  · cases h; exact ⟨by assumption, by assumption⟩
  · cases h

/-- A tick of the nodes is a tick of each. -/
theorem tickNodes_next {level : Bool} : ∀ {ns ms : List Node}, tickNodes level ns = .next ms →
    List.Forall₂ (fun n m => ∃ u, (if n.listens then tickAt level n.unit else tick n.unit) = .next u ∧
      m = { n with unit := u }) ns ms
  | [], _, h => by cases h; exact .nil
  | n :: rest, _, h => by
    unfold tickNodes at h
    split at h
    · cases h
    · cases h
    · split at h
      · cases h
      · cases h
      · cases h
        exact .cons ⟨_, by assumption, rfl⟩ (tickNodes_next (by assumption))

/-- A tick of a line has at most one connected `tx_out`, and is a tick of the nodes at its level, or at the level from
outside (R74). -/
theorem busTick_next {x : Bool} {ns ms : List Node} (h : busTick x ns = .next ms) :
    (drivenLevels ns = [] ∧ tickNodes x ns = .next ms) ∨
    ∃ level, drivenLevels ns = [level] ∧ tickNodes level ns = .next ms := by
  unfold busTick at h
  split at h
  · exact .inl ⟨by assumption, h⟩
  · exact .inr ⟨_, by assumption, h⟩
  · cases h

end Sys2Proof.Machine
end

