-- ==== Sys2Proof/Tests/Slice0.lean ====
section
/-! SUPPORT. Tests of single steps with results taken from `95_test_vectors.md` and the rules' examples, tests of the
decoder with words written out from the spec's encodings, ill-formed terms, and a witness for the hypotheses of every
statement of `Certificates/Slice0/Obligations.lean`. -/

namespace Sys2Proof.Tests

open Sys2Proof.Machine

/-! ### Helpers -/

/-- The next state, if there is one. -/
def nextOf (r : Result) : Option State :=
  match r with
  | .next s => some s
  | .fault _ => none
  | .refused _ => none

/-- Why an operation is refused, if it is. -/
def refusalOf (r : Result) : Option Refusal :=
  match r with
  | .next _ => none
  | .fault _ => none
  | .refused e => some e

/-- An enabled instance with both divisors 4, idle. -/
def ready : State := { State.reset with en := true, txDiv := 4#16, rxDiv := 4#16 }

/-- The transmitter at wire bit `i` with `cnt` ticks left of it, sending the word 0x00B. -/
def sending (i : BitVec 4) (cnt : BitVec 16) : State :=
  { ready with
    txSlot := 0x00B#10, txFull := true, txState := .shift, txIdx := i, txCnt := cnt, txOut := wireBit 0x00B#10 i }

/-- The receiver in state `r` with counter `cnt` and input `x`. -/
def receiving (r : RxState) (cnt : BitVec 17) (bits : BitVec 4) (x : Bool) : State :=
  { ready with rxState := r, rxCnt := cnt, rxBits := bits, rxShift := 0x00B#10, rxIn := x }

/-- A driver in mode ODD with own address 0x05. -/
def driver5 (listening : Bool) : Driver :=
  { parityMode := .odd, ownAddress := 0x05#8, listening := listening, lastFrame := none, lastError := false, cpb := 4#16 }

/-- An instance with a driver and a delivered frame `w`. -/
def delivered (w : BitVec 10) (listening : Bool) : State :=
  { ready with rxSlot := w, rxValid := true, driver := some (driver5 listening) }

/-! ### Ill-formed terms (R101, R104) -/

theorem test_illformed_txData_low : WellFormed (.txData 0#4) = false := by decide
theorem test_illformed_txData_high : WellFormed (.txData 10#4) = false := by decide
theorem test_illformed_configure_mode : WellFormed (.configure 250000 3#2 0x05#8) = false := by decide

/-! ### Decoding: command words of programs P1, P3 and table 2.5; engine codes of R104, R105 -/

theorem test_decode_host_words :
    decodeTableWord 24 0x8000B = some (.wrTxdata 0x000B#16) ∧ decodeTableWord 24 0x80254 = some (.wrTxdata 0x0254#16) ∧
    decodeTableWord 24 0xC0004 = some (.wrTxdiv 4#16) ∧ decodeTableWord 24 0xD0004 = some (.wrRxdiv 4#16) ∧
    decodeTableWord 24 0xA0004 = some (.wrStatus 4#16) ∧ decodeTableWord 24 0xB0001 = some (.wrCtrl 1#16) ∧
    decodeTableWord 24 0x10000 = some .rdRxdata ∧ decodeTableWord 24 0x20000 = some .rdStatus ∧
    decodeTableWord 24 0x30000 = some .rdCtrl := by decide

theorem test_decode_other_host_words :
    decodeTableWord 24 0x00000 = some .rdTxdata ∧ decodeTableWord 24 0x40000 = some .rdTxdiv ∧
    decodeTableWord 24 0x50000 = some .rdRxdiv ∧ decodeTableWord 24 0x60000 = some .rdRsvd6 ∧
    decodeTableWord 24 0x70000 = some .rdRsvd7 ∧ decodeTableWord 24 0x90001 = some (.wrRxdata 1#16) ∧
    decodeTableWord 24 0xE0002 = some (.wrRsvd6 2#16) ∧ decodeTableWord 24 0xF0003 = some (.wrRsvd7 3#16) ∧
    decodeTableWord 24 0x100000 = none := by decide

theorem test_decode_tx_codes :
    decodeTableWord 5 0b00110 = some .txIdle ∧ decodeTableWord 5 0b10000 = some .txStart ∧
    decodeTableWord 5 0b10001 = some (.txData 1#4) ∧ decodeTableWord 5 0b11001 = some (.txData 9#4) ∧
    decodeTableWord 5 0b11010 = some .txParity ∧ decodeTableWord 5 0b11011 = some .txStop ∧
    decodeTableWord 5 0b11100 = none ∧ decodeTableWord 5 0b11111 = none := by decide

theorem test_decode_rx_codes :
    decodeRx 0b00#2 0#17 true = .ok .rxIdle ∧ decodeRx 0b01#2 6#17 false = .ok .rxSamplingCount ∧
    decodeRx 0b01#2 1#17 false = .ok .rxSamplingSample ∧ decodeRx 0b10#2 4#17 true = .ok .rxStopCheckCount ∧
    decodeRx 0b10#2 1#17 true = .ok .rxStopCheckHigh ∧ decodeRx 0b10#2 1#17 false = .ok .rxStopCheckLow ∧
    decodeRx 0b11#2 1#17 false = .ok .rxFramingError ∧ decodeRx 0b01#2 0#17 true = .error .rxCounterZero := by decide

theorem test_decode_calls :
    decode (.call (.configure 250000 1#2 0x05#8)) = .ok (.configure 250000 1#2 0x05#8) ∧
    decode (.call (.send true 5)) = .ok (.send true 5) ∧ decode (.call (.sendAddress 5)) = .ok (.sendAddress 5) ∧
    decode (.call (.sendData 0x2A)) = .ok (.sendData 0x2A) ∧ decode (.call .receive) = .ok .receive := by decide

theorem test_encode_rx_deliver : encode .rxDeliver = encode .rxStopCheckHigh := by decide

/-! ### Encoding and parity: table 2.2 and R210, R213 -/

theorem test_encodeFrame_odd : encodeFrame .odd true 0x05 = 0x000B#16 ∧ encodeFrame .odd false 0x2A = 0x0054#16 ∧
    encodeFrame .odd false 0 = 0x0200#16 ∧ encodeFrame .odd false 0xFF = 0x03FE#16 ∧
    encodeFrame .odd false 0x1A5 = 0x034A#16 := by decide

theorem test_encodeFrame_even_none : encodeFrame .even true 0x05 = 0x020B#16 ∧ encodeFrame .even true 0xFF = 0x03FF#16 ∧
    encodeFrame .noParity false 0xA5 = 0x014A#16 := by decide

theorem test_decodeFrame :
    decodeFrame .odd 0x000B#16 = some { isAddress := true, data := 0x05#8 } ∧ decodeFrame .odd 0x020B#16 = none ∧
    decodeFrame .even 0x020B#16 = some { isAddress := true, data := 0x05#8 } ∧
    decodeFrame .noParity 0x020B#16 = some { isAddress := true, data := 0x05#8 } ∧
    decodeFrame .odd 0x03FF#16 = none := by decide

/-- The line of 0x034A in time order, table 2.2: `001010010111`. -/
theorem test_wireBit : (List.range 12).map (fun i => wireBit 0x34A#10 (BitVec.ofNat 4 i)) =
    [false, false, true, false, true, false, false, true, false, true, true, true] := by decide

/-! ### Host accesses: table 2.5 and the rules' examples -/

theorem test_rdTxdata : refusalOf (exec .rdTxdata ready) = some .readOfWriteOnlyRegister := by decide
/-- R186: `RD RXDATA -> 0x000B` and the flag is clear. -/
theorem test_rdRxdata : (nextOf (exec .rdRxdata (delivered 0x00B#10 false))).map (fun t => (t.readValue, t.rxValid)) =
    some (0x000B#16, false) := by decide
/-- Table 2.4: a second read gives a draw and changes nothing. -/
theorem test_rdRxdata_empty : (nextOf (exec .rdRxdata ready)).map (fun t => (t.rxValid, t.draws)) = some (false, 1) := by
  decide
/-- R236: a frame unread and a new frame being collected read 0x000A. -/
theorem test_rdStatus_busy : (nextOf (exec .rdStatus { receiving .sampling 6#17 10#4 false with rxValid := true })).map
    (·.readValue) = some 0x000A#16 := by decide
/-- Table 2.5: `rx_ferr = 1`, `rx_valid = 1` read 0x0006. -/
theorem test_rdStatus_error : (nextOf (exec .rdStatus { ready with rxValid := true, rxFerr := true })).map
    (·.readValue) = some 0x0006#16 := by decide
theorem test_rdCtrl : (nextOf (exec .rdCtrl ready)).map (·.readValue) = some 0x0001#16 := by decide
theorem test_rdTxdiv : (nextOf (exec .rdTxdiv { ready with txDiv := 0x01F4#16 })).map (·.readValue) =
    some 0x01F4#16 := by decide
theorem test_rdRxdiv : (nextOf (exec .rdRxdiv ready)).map (·.readValue) = some 0x0004#16 := by decide
theorem test_rdRsvd6 : refusalOf (exec .rdRsvd6 State.reset) = some .reservedRegister := by decide
theorem test_rdRsvd7 : refusalOf (exec .rdRsvd7 State.reset) = some .reservedRegister := by decide
/-- R140. -/
theorem test_wrTxdata : (nextOf (exec (.wrTxdata 0x000B#16) ready)).map (fun t => (t.txSlot, t.txFull)) =
    some (0x00B#10, true) := by decide
/-- Section 2.3: 0x0400 is refused whether or not a frame is running. -/
theorem test_wrTxdata_malformed : refusalOf (exec (.wrTxdata 0x0400#16) (sending 3#4 2#16)) = some .malformedTxWord := by
  decide
theorem test_wrRxdata : refusalOf (exec (.wrRxdata 0#16) ready) = some .writeOfReadOnlyRegister := by decide
/-- Table 2.5: `WR STATUS 0x000F` clears `rx_ferr` only. -/
theorem test_wrStatus : (nextOf (exec (.wrStatus 0x000F#16) { ready with rxValid := true, rxFerr := true })).map
    (fun t => (t.rxFerr, t.rxValid)) = some (false, true) := by decide
theorem test_wrStatus_reserved : refusalOf (exec (.wrStatus 0x0010#16) ready) = some .reservedBitsWritten := by decide
/-- R239: `WR CTRL 0x0001` after reset is refused. -/
theorem test_wrCtrl_illegal : refusalOf (exec (.wrCtrl 1#16) State.reset) = some .enableWithIllegalDivisor := by decide
theorem test_wrCtrl_in_flight : refusalOf (exec (.wrCtrl 0#16) { ready with txFull := true }) =
    some .configChangeInFlight := by decide
theorem test_wrTxdiv : (nextOf (exec (.wrTxdiv 0x01F4#16) State.reset)).map (·.txDiv) = some 500#16 := by decide
theorem test_wrTxdiv_enabled : refusalOf (exec (.wrTxdiv 4#16) ready) = some .configChangeWhileEnabled := by decide
theorem test_wrRxdiv : (nextOf (exec (.wrRxdiv 0x01F4#16) State.reset)).map (·.rxDiv) = some 500#16 := by decide
theorem test_wrRsvd6 : refusalOf (exec (.wrRsvd6 0#16) ready) = some .reservedRegister := by decide
theorem test_wrRsvd7 : refusalOf (exec (.wrRsvd7 0#16) ready) = some .reservedRegister := by decide

/-! ### Engine transitions: the rows of tables 2.3 and 2.4 -/

/-- Tick 3 of table 2.3. -/
theorem test_txIdle : (nextOf (exec .txIdle { ready with txFull := true, txSlot := 0x00B#10 })).map
    (fun t => (t.txState, t.txIdx, t.txCnt, t.txOut)) = some (.shift, 0#4, 4#16, false) := by decide
/-- Tick 7. -/
theorem test_txStart : (nextOf (exec .txStart (sending 0#4 1#16))).map (fun t => (t.txIdx, t.txCnt, t.txOut)) =
    some (1#4, 4#16, true) := by decide
/-- Tick 15: D2 of 0x00B is 0. -/
theorem test_txData : (nextOf (exec (.txData 2#4) (sending 2#4 1#16))).map (fun t => (t.txIdx, t.txCnt, t.txOut)) =
    some (3#4, 4#16, false) := by decide
/-- Tick 8: a count. -/
theorem test_txData_count : (nextOf (exec (.txData 1#4) (sending 1#4 4#16))).map (fun t => (t.txIdx, t.txCnt)) =
    some (1#4, 3#16) := by decide
/-- Tick 47. -/
theorem test_txParity : (nextOf (exec .txParity (sending 10#4 1#16))).map (fun t => (t.txIdx, t.txCnt, t.txOut)) =
    some (11#4, 4#16, true) := by decide
/-- Tick 51. -/
theorem test_txStop : (nextOf (exec .txStop (sending 11#4 1#16))).map
    (fun t => (t.txState, t.txIdx, t.txCnt, t.txOut, t.txFull)) = some (.idle, 11#4, 1#16, true, false) := by decide

/-- Tick 3 of table 2.4: the edge. -/
theorem test_rxIdle : (nextOf (exec .rxIdle { ready with rxPrev := true, rxIn := false })).map
    (fun t => (t.rxState, t.rxCnt, t.rxBits, t.rxShift)) = some (.sampling, 6#17, 10#4, 0#10) := by decide
/-- R172: low at enable is no edge. -/
theorem test_rxIdle_low : (nextOf (exec .rxIdle { ready with rxPrev := false, rxIn := false })).map (·.rxState) =
    some .idle := by decide
theorem test_rxSamplingCount : (nextOf (exec .rxSamplingCount (receiving .sampling 6#17 10#4 false))).map (·.rxCnt) =
    some 5#17 := by decide
/-- Tick 21: 0x180 and a sample of 1 give 0x2C0. -/
theorem test_rxSamplingSample : (nextOf (exec .rxSamplingSample
    { receiving .sampling 1#17 7#4 true with rxShift := 0x180#10 })).map (fun t => (t.rxShift, t.rxBits, t.rxCnt)) =
    some (0x2C0#10, 6#4, 4#17) := by decide
/-- Tick 45: the tenth sample. -/
theorem test_rxSamplingSample_last : (nextOf (exec .rxSamplingSample
    { receiving .sampling 1#17 1#4 false with rxShift := 0x016#10 })).map (fun t => (t.rxShift, t.rxBits, t.rxState)) =
    some (0x00B#10, 0#4, .stopCheck) := by decide
theorem test_rxStopCheckCount : (nextOf (exec .rxStopCheckCount (receiving .stopCheck 4#17 0#4 false))).map (·.rxCnt) =
    some 3#17 := by decide
/-- Tick 49. -/
theorem test_rxStopCheckHigh : (nextOf (exec .rxStopCheckHigh (receiving .stopCheck 1#17 0#4 true))).map
    (fun t => (t.rxState, t.rxSlot, t.rxValid, t.rxCnt, t.rxPrev)) = some (.idle, 0x00B#10, true, 1#17, true) := by decide
/-- R177: an unread word is replaced. -/
theorem test_rxDeliver : (nextOf (exec .rxDeliver
    { receiving .stopCheck 1#17 0#4 true with rxValid := true, rxSlot := 0x00B#10, rxShift := 0x054#10 })).map
    (fun t => (t.rxSlot, t.rxValid, t.rxState)) = some (0x054#10, true, .stopCheck) := by decide
/-- R179: `STATUS` then reads 0x000C. -/
theorem test_rxStopCheckLow : (nextOf (exec .rxStopCheckLow (receiving .stopCheck 1#17 0#4 false))).map
    (fun t => (t.rxState, t.rxValid, statusWord t)) = some (.framingError, false, 0x000C#16) := by decide
/-- R180. -/
theorem test_rxFramingError : (nextOf (exec .rxFramingError (receiving .framingError 1#17 0#4 true))).map
    (fun t => (t.rxState, t.rxPrev)) = some (.idle, true) := by decide
/-- R32: a transition its state does not select is none. -/
theorem test_not_selected : refusalOf (exec .rxStopCheckHigh ready) = some .transitionNotSelected := by decide

/-! ### Driver operations: the head of part 3, tables 2.1, 2.2 and 2.6 -/

theorem test_configure : (nextOf (exec (.configure 250000 1#2 0x05#8) { State.reset with clockHz := 1000000 })).map
    (fun t => (t.en, t.txDiv, t.rxDiv, t.rxPrev, t.driver)) =
    some (true, 4#16, 4#16, false, some (driver5 false)) := by decide
/-- Table 2.1: 1,907 bit/s at 125 MHz gives 65547. -/
theorem test_configure_range : refusalOf (exec (.configure 1907 1#2 0x05#8) State.reset) = some .baudOutOfRange := by
  decide
/-- R219. -/
theorem test_send : (nextOf (exec (.send true 0x05) (delivered 0#10 false))).map (fun t => (t.txSlot, t.txFull)) =
    some (0x00B#10, true) := by decide
/-- R215. -/
theorem test_send_before_configure : refusalOf (exec (.send true 0x05) ready) = some .notConfigured := by decide
theorem test_sendAddress : (nextOf (exec (.sendAddress 0x06) (delivered 0#10 false))).map (·.txSlot) =
    some 0x00D#10 := by decide
theorem test_sendData : (nextOf (exec (.sendData 0x2A) (delivered 0#10 false))).map (·.txSlot) = some 0x054#10 := by
  decide
/-- Table 2.6, second row. -/
theorem test_receive_address : (nextOf (exec .receive (delivered 0x00B#10 false))).map (fun t => (t.result, t.driver)) =
    some ({ valid := true, isAddress := true, data := 0x05#8, error := false },
      some { driver5 true with lastFrame := some { isAddress := true, data := 0x05#8 } }) := by decide
/-- Table 2.6, sixth row: a flipped parity bit. -/
theorem test_receive_parity : (nextOf (exec .receive (delivered 0x254#10 true))).map (fun t => (t.result, t.driver)) =
    some ({ valid := false, isAddress := false, data := 0#8, error := true },
      some { driver5 true with lastError := true }) := by decide

/-! ### Steps -/

/-- A word placed by `withFetchWord` is run by the very next step. -/
theorem test_step_runs_word : (nextOf (step (State.reset.withFetchWord 24 0xC01F4))).map (·.txDiv) = some 500#16 := by
  decide
theorem test_step_runs_tx_code : (nextOf (step (ready.withFetchWord 5 0b11010))).map (fun t => (t.txIdx, t.txOut)) =
    some (11#4, true) := by decide
/-- Section 2.3, the hold: a second write waits, and is made as soon as the buffer is free. -/
theorem test_step_hold : (nextOf (step { sending 11#4 1#16 with held := some 0x0054#16, line := [true] })).map
    (fun t => (t.txFull, t.held)) = some (false, some 0x0054#16) := by decide
theorem test_step_hold_lifted : (nextOf (step { ready with held := some 0x0054#16 })).map
    (fun t => (t.txFull, t.held, t.txSlot)) = some (true, none, 0x054#10) := by decide
/-- R280: the line goes high at once and `EN` is 0. -/
theorem test_step_reset : (nextOf (step { sending 0#4 3#16 with script := [.reset] })).map
    (fun t => (t.en, t.txOut, t.txFull, t.txState, t.txDiv)) = some (false, true, false, .idle, 0#16) := by decide
/-- R218's example: the accesses of `configure(250000, ODD, 0x05)` after reset, latest first, with the values read. -/
theorem test_configure_trace : (nextOf (exec (.configure 250000 1#2 0x05#8) State.reset)).map (·.trace) =
    some [.accepted, .accepted, .read 0x0000#16, .accepted, .accepted, .read 0x0000#16] := by decide
/-- R302, R299: a blocking `receive` with an empty gap listed polls again with no tick, and returns no record for it. -/
theorem test_await_no_tick :
    (nextOf (step { ready with driver := some (driver5 false), gaps := [[]], script := [.await] })).map
      (fun t => (t.script, t.gaps, t.trace)) = some ([.await], [], [.read 0x0000#16]) := by decide
/-- U20. -/
theorem test_step_unreachable_code : nextOf (step { sending 12#4 3#16 with line := [true] }) = none := by decide

/-! ### Witnesses: a state and operands that meet the hypotheses of each statement, clause by clause -/

theorem witness_DecodeOfEncodeIsTheOperation :
    (WellFormed (.txData 1#4) = true ∧ Instr.txData 1#4 ≠ .rxDeliver) ∧
    (WellFormed (.txData 9#4) = true ∧ Instr.txData 9#4 ≠ .rxDeliver) ∧
    (WellFormed (.configure 1 2#2 0xFF#8) = true ∧ Instr.configure 1 2#2 0xFF#8 ≠ .rxDeliver) := by decide

theorem witness_EngineCodesDecode :
    (1 ≤ (1#4).toNat ∧ (1#4).toNat ≤ 9) ∧ (1 ≤ (9#4).toNat ∧ (9#4).toNat ≤ 9) ∧ 12 ≤ (12#4).toNat ∧
    12 ≤ (15#4).toNat ∧ 1 < (2#17).toNat := by decide

theorem witness_WireBitIsTheWireFrame :
    (0#4).toNat = 0 ∧ 1 ≤ (1#4).toNat ∧ (10#4).toNat ≤ 10 ∧ (11#4).toNat = 11 := by decide

theorem witness_RxdataReadPopsTheSlot : (delivered 0x3FF#10 true).rxValid = true ∧ ready.rxValid = false := by decide

theorem witness_DivisorWritesNeedDisable : State.reset.en = false ∧ ready.en = true := by decide

theorem witness_StatusWriteClearsTheFramingFlag :
    ((15#16).toNat < 16 ∧ (15#16).getLsbD 2 = true) ∧ ((11#16).toNat < 16 ∧ (11#16).getLsbD 2 = false) ∧
    16 ≤ (16#16).toNat := by decide

theorem witness_CtrlWriteEnablesAndDisables :
    2 ≤ (2#16).toNat ∧
    (State.reset.en = false ∧ State.reset.txDiv.toNat < 2) ∧
    ({ ready with en := false, txDiv := 2#16, rxDiv := 2#16 } : State).en = false ∧
    (ready.en = true ∧ (sending 0#4 1#16).txFull = true ∧ (sending 0#4 1#16).en = true) ∧
    (ready.txFull = false ∧ ready.rxState = .idle) := by decide

theorem witness_TxdataWriteFillsHoldsOrIsRefused :
    State.reset.en = false ∧ (ready.en = true ∧ 1024 ≤ (1024#16).toNat) ∧
    ((sending 0#4 1#16).en = true ∧ (1023#16).toNat < 1024 ∧ (sending 0#4 1#16).txFull = true) ∧
    ready.txFull = false ∧
    (({ ready with held := some 5#16 } : State).held = some 5#16 ∧ ({ ready with held := some 5#16 } : State).txFull = false ∧
      ({ ready with held := some 5#16 } : State).script.head? ≠ some .reset) ∧
    (({ sending 0#4 1#16 with held := some 5#16 } : State).script.head? ≠ some .tick) ∧
    ({ sending 0#4 1#16 with held := some 5#16, script := [.tick] } : State).script = [.tick] := by decide

theorem witness_IdempotentAccesses :
    (∃ t, exec .rdStatus ready = .next t) ∧ (∃ t, exec (.wrCtrl 0#16) ready = .next t) ∧
    (∃ t, exec (.wrStatus 4#16) ready = .next t) ∧ ∃ t, exec (.wrTxdiv 2#16) State.reset = .next t :=
  ⟨⟨_, rfl⟩, ⟨_, rfl⟩, ⟨_, rfl⟩, ⟨_, rfl⟩⟩

theorem witness_HostAccessesLeaveTheEngines :
    ∃ t, exec (decodeHost 0x8000B#20) ready = .next t ∧ t.txSlot ≠ ready.txSlot :=
  ⟨_, rfl, by decide⟩

theorem witness_TxIdleStartsTheFrame :
    (ready.en = true ∧ ready.txState = .idle ∧ ready.txFull = false) ∧
    (({ ready with txFull := true } : State).txState = .idle ∧ ({ ready with txFull := true } : State).txFull = true) := by
  decide

theorem witness_TxStartSendsTheFlag :
    ((sending 0#4 2#16).en = true ∧ (sending 0#4 2#16).txState = .shift ∧ (sending 0#4 2#16).txIdx = 0#4 ∧
      1 < (sending 0#4 2#16).txCnt.toNat) ∧ (sending 0#4 1#16).txCnt.toNat ≤ 1 := by decide

theorem witness_TxDataSendsTheNextBit :
    ((sending 1#4 2#16).txIdx = 1#4 ∧ 1 ≤ (1#4).toNat ∧ 1 < (sending 1#4 2#16).txCnt.toNat) ∧
    ((sending 9#4 1#16).txIdx = 9#4 ∧ (9#4).toNat ≤ 9 ∧ (sending 9#4 1#16).txCnt.toNat ≤ 1) := by decide

theorem witness_TxParitySendsTheStopBit :
    (sending 10#4 2#16).txIdx = 10#4 ∧ 1 < (sending 10#4 2#16).txCnt.toNat ∧ (sending 10#4 1#16).txCnt.toNat ≤ 1 := by
  decide

theorem witness_TxStopFreesTheBuffer :
    (sending 11#4 2#16).txIdx = 11#4 ∧ 1 < (sending 11#4 2#16).txCnt.toNat ∧ (sending 11#4 1#16).txCnt.toNat ≤ 1 := by
  decide

theorem witness_RxIdleFindsTheFallingEdge :
    (({ ready with rxPrev := true, rxIn := false } : State).rxPrev = true ∧
      ({ ready with rxPrev := true, rxIn := false } : State).rxIn = false) ∧
    ready.rxPrev = false ∧ ready.rxIn = true := by decide

theorem witness_RxCountsOnly :
    (1 < (receiving .sampling 2#17 10#4 true).rxCnt.toNat ∧ (receiving .sampling 2#17 10#4 true).rxState = .sampling) ∧
    (receiving .stopCheck 2#17 0#4 true).rxState = .stopCheck := by decide

theorem witness_RxSampleShiftsIn :
    (receiving .sampling 1#17 1#4 true).en = true ∧ (receiving .sampling 1#17 1#4 true).rxState = .sampling ∧
    (receiving .sampling 1#17 1#4 true).rxCnt = 1#17 := by decide

theorem witness_RxHighStopBitDelivers :
    (receiving .stopCheck 1#17 0#4 true).rxState = .stopCheck ∧ (receiving .stopCheck 1#17 0#4 true).rxCnt = 1#17 ∧
    (receiving .stopCheck 1#17 0#4 true).rxIn = true := by decide

theorem witness_RxLowStopBitIsAFramingError :
    (receiving .stopCheck 1#17 0#4 false).rxState = .stopCheck ∧ (receiving .stopCheck 1#17 0#4 false).rxCnt = 1#17 ∧
    (receiving .stopCheck 1#17 0#4 false).rxIn = false := by decide

theorem witness_RxFramingErrorWaitsForHigh :
    (receiving .framingError 1#17 0#4 true).rxState = .framingError ∧ (receiving .framingError 1#17 0#4 true).rxIn = true ∧
    (receiving .framingError 1#17 0#4 false).rxIn = false := by decide

theorem witness_EnginesWriteOnlyTheirOwn :
    (∃ t, exec .txStop (sending 11#4 1#16) = .next t) ∧ (∃ t, exec (.txData 9#4) (sending 9#4 1#16) = .next t) ∧
    ∃ t, exec .rxDeliver (receiving .stopCheck 1#17 0#4 true) = .next t :=
  ⟨⟨_, rfl⟩, ⟨_, rfl⟩, ⟨_, rfl⟩⟩

theorem witness_EnginesAreBlindToEachOther :
    (∃ t, txTick (sending 10#4 1#16) = .next t) ∧ (∃ t, rxTick (receiving .sampling 1#17 1#4 true) = .next t) :=
  ⟨⟨_, rfl⟩, ⟨_, rfl⟩⟩

theorem witness_StepRunsTheDecodedOperation :
    ({ ready with script := [.access 0x20000#20] } : State).held = none ∧
    decode (.host 0x20000#20) = .ok .rdStatus ∧ decode (.call .receive) = .ok .receive := by decide

theorem witness_StepTicksBothEngines :
    ({ ready with script := [.tick] } : State).held = none ∧ ready.script = [] ∧ ready.en = true ∧
    decode (.tx (txCode ready)) = .ok .txIdle ∧ decode (.rx (rxStateCode ready.rxState) ready.rxCnt true) = .ok .rxIdle := by
  decide

theorem witness_DisabledTickOnlyClearsPrev : State.reset.en = false := by decide

theorem witness_ResetStepSetsEveryRegister :
    ({ ready with script := [.reset] } : State).script = .reset :: [] ∧
    ({ ready with script := [.reset, .tick], held := some 5#16 } : State).script = .reset :: [.tick] := by decide

theorem witness_BlockingReceivePollsAgain :
    ({ delivered 0x00B#10 false with script := [.await] } : State).held = none ∧
    (nextOf (pollReceiver (delivered 0x00B#10 false))).map (·.result.valid) = some true ∧
    (nextOf (pollReceiver { ready with driver := some (driver5 false) })).map
      (fun t => (t.result.valid, t.result.error, t.gaps)) = some (false, false, []) ∧
    (nextOf (pollReceiver { ready with driver := some (driver5 false), gaps := [[], [.tick]] })).map
      (fun t => (t.result.valid, t.result.error, t.gaps)) = some (false, false, [[], [.tick]]) := by decide

/-- A line with one connected transmitter, `sending` its start bit, a listener, and an instance that only stands by. -/
def line3 : List Node :=
  [{ unit := sending 0#4 3#16, drives := true, listens := true }, { unit := ready, drives := false, listens := true },
    { unit := { ready with line := [true] }, drives := false, listens := false }]

/-- R74: every listener hears the connected `tx_out`, the instance that does not listen its own input. -/
theorem test_busTick :
    (match busTick true line3 with
      | .next ns => ns.map (·.unit.rxIn)
      | .fault _ => []
      | .refused _ => []) = [false, false, true] := by decide

theorem witness_WireDelaysOneTick :
    (∃ q, pairTick { a := ready, b := sending 3#4 1#16 } = some q) ∧
    (∃ t, tick { ready with wiring := .loopback } = .next t) ∧
    (∃ ns, busTick true line3 = .next ns) ∧ (line3[1]?.map (·.listens) = some true ∧ ready.en = true) ∧
    (∃ d ∈ line3, d.drives = true ∧ false = d.unit.txOut) ∧
    ((∃ ns, busTick false line3.tail = .next ns) ∧ ∀ d ∈ line3.tail, d.drives = false) ∧
    (line3.map fun n => { n with drives := true })[0]?.map (·.drives) = some true ∧
    (line3.map fun n => { n with drives := true })[2]?.map (·.drives) = some true :=
  ⟨⟨_, rfl⟩, ⟨_, rfl⟩, ⟨_, rfl⟩, by decide, by decide, ⟨⟨_, rfl⟩, by decide⟩, by decide, by decide⟩

theorem witness_ConfigureInitialisesTheInstance :
    (2 ≤ State.reset.clockHz / 62500000 ∧ State.reset.clockHz / 1908 ≤ 65535 ∧ State.reset.gaps = [] ∧
      State.reset.en = false) ∧
    (ready.txFull = false ∧ ready.rxState = .idle ∧ ready.clockHz / 250000 = 500) := by decide

theorem witness_ConfigureCompletesUnderTicks :
    parityModeOf 2#2 = some .even ∧
    ∀ g ∈ ({ State.reset with gaps := [[.tick], [], [.tick, .tick]] } : State).gaps, Lull.reset ∉ g := by decide

theorem witness_ConfigureRefusesBadArguments :
    State.reset.clockHz / 62500001 < 2 ∧ 65535 < State.reset.clockHz / 1907 ∧ ready.clockHz / 250000 = 500 ∧
    (sending 0#4 1#16).txFull = true ∧ (sending 0#4 1#16).en = true ∧ (sending 0#4 1#16).gaps = [] := by decide

theorem witness_SendsWriteOneWord :
    ((delivered 0#10 true).driver = some (driver5 true) ∧ (delivered 0#10 true).en = true ∧
      (delivered 0#10 true).txFull = false) ∧
    ({ sending 0#4 1#16 with driver := some (driver5 true) } : State).txFull = true := by decide

theorem witness_CallsBeforeConfigureAreRefused : State.reset.driver = none := by decide

/-- A state whose next driver operation has one tick after its first access, the line high. -/
def oneTickGap (s : State) : State := { s with gaps := [[.tick]], line := [true] }

/-- What the hypotheses of the three statements on a waiting frame say of `s`: the frame is read in the state `u`. -/
def readsFrame (s u : State) : Prop :=
  s.driver.isSome = true ∧ s.rxFerr = false ∧ s.rxValid = true ∧
    (∃ r, exec .rdStatus s = .next r ∧ elapse r = .next u) ∧ u.rxValid = true

theorem witness_ReceiveReportsTheFramingErrorFirst :
    (oneTickGap { delivered 0x00B#10 true with rxFerr := true }).rxFerr = true ∧
    (∃ r u, exec .rdStatus (oneTickGap { delivered 0x00B#10 true with rxFerr := true }) = .next r ∧
      elapse r = .next u) ∧
    ({ delivered 0x00B#10 true with rxFerr := true } : State).gaps = [] ∧
    (({ ready with driver := some (driver5 true) } : State).rxFerr = false ∧
      ({ ready with driver := some (driver5 true) } : State).rxValid = false) :=
  ⟨rfl, ⟨_, _, rfl, rfl⟩, rfl, rfl, rfl⟩

theorem witness_ReceiveAddressFrameSetsListening :
    ∃ u, readsFrame (oneTickGap (delivered 0x00B#10 false)) u ∧
      u.rxSlot.getLsbD 9 = parityBit .odd (u.rxSlot.extractLsb' 0 9) ∧ u.rxSlot.getLsbD 0 = true :=
  ⟨_, ⟨rfl, rfl, rfl, ⟨_, rfl, rfl⟩, rfl⟩, by decide, by decide⟩

theorem witness_ReceiveDataFrameNeedsListening :
    ∃ u, readsFrame (oneTickGap (delivered 0x054#10 false)) u ∧
      u.rxSlot.getLsbD 9 = parityBit .odd (u.rxSlot.extractLsb' 0 9) ∧ u.rxSlot.getLsbD 0 = false :=
  ⟨_, ⟨rfl, rfl, rfl, ⟨_, rfl, rfl⟩, rfl⟩, by decide, by decide⟩

theorem witness_ReceiveParityErrorDiscards :
    (driver5 true).parityMode ≠ .noParity ∧
    ∃ u, readsFrame (oneTickGap (delivered 0x254#10 true)) u ∧
      u.rxSlot.getLsbD 9 ≠ parityBit .odd (u.rxSlot.extractLsb' 0 9) :=
  ⟨by decide, _, ⟨rfl, rfl, rfl, ⟨_, rfl, rfl⟩, rfl⟩, by decide⟩

theorem sound_ready : ready.Sound := ⟨rfl, trivial, ⟨by decide, by decide⟩⟩

theorem sound_sending : (sending 11#4 1#16).Sound :=
  ⟨⟨rfl, rfl, by decide, by decide, by decide, rfl⟩, trivial, ⟨by decide, by decide⟩⟩

/-- `s` with the gap `g` before its next driver operation's second access, the line high at its ticks. -/
def withGap (s : State) (g : List Lull) : State := { s with gaps := [g], line := [true, true] }

theorem witness_ReceiveIsCorrectUnderTicks :
    ((withGap { delivered 0x00B#10 true with rxFerr := true } [.tick, .reset]).Sound ∧
      (withGap { delivered 0x00B#10 true with rxFerr := true } [.tick, .reset]).driver = some (driver5 true)) ∧
    ((withGap (delivered 0x00B#10 true) [.tick, .tick]).Sound ∧
      ∃ u, elapse (withGap (delivered 0x00B#10 true) [.tick, .tick]) = .next u ∧ u.rxValid = true) ∧
    (∀ g ∈ (withGap (delivered 0x00B#10 true) [.tick, .tick]).gaps, Lull.reset ∉ g) ∧
    ((withGap (delivered 0x00B#10 true) [.reset]).Sound ∧
      ∃ u, elapse (withGap (delivered 0x00B#10 true) [.reset]) = .next u ∧ u.rxValid = false) ∧
    (({ ready with driver := some (driver5 true) } : State).Sound ∧
      ({ ready with driver := some (driver5 true) } : State).rxFerr = false ∧
      ({ ready with driver := some (driver5 true) } : State).rxValid = false) :=
  ⟨⟨⟨rfl, trivial, ⟨by decide, by decide⟩⟩, rfl⟩, ⟨⟨rfl, trivial, ⟨by decide, by decide⟩⟩, _, rfl, rfl⟩, by decide,
    ⟨⟨rfl, trivial, ⟨by decide, by decide⟩⟩, _, rfl, rfl⟩, ⟨rfl, trivial, ⟨by decide, by decide⟩⟩, rfl, rfl⟩

theorem witness_StepKeepsSound : ready.Sound ∧ (∃ t, step { ready with line := [true] } = .next t) ∧
    (sending 11#4 1#16).Sound ∧ ∃ t, step (sending 11#4 1#16) = .next t :=
  ⟨sound_ready, ⟨_, rfl⟩, sound_sending, ⟨_, rfl⟩⟩

theorem witness_FramingFlagIsSticky :
    (nextOf (step { ready with rxFerr := true, script := [.access 0xA0004#20] })).map (·.rxFerr) = some false := by decide

theorem witness_LastErrorIsSticky :
    (nextOf (step { delivered 0x00B#10 false with script := [.call .receive] })).map (·.driver.isSome) = some true ∧
    ({ driver5 true with lastError := true } : Driver).lastError = true := by decide

theorem witness_SlotIsConstantWhileFull :
    (nextOf (step { sending 3#4 2#16 with script := [.tick], line := [true] })).isSome = true ∧
    (sending 3#4 2#16).txFull = true := by decide

theorem witness_TransmittedFrameSchedule :
    ready.Sound ∧ ready.en = true ∧ ready.txFull = false ∧ (1023#16).toNat < 1024 ∧
    ∃ s, exec (.wrTxdata 1023#16) ready = .next s :=
  ⟨sound_ready, rfl, rfl, by decide, ⟨_, rfl⟩⟩

theorem witness_HeldWriteIsAccepted :
    ({ sending 11#4 1#16 with held := some 0x0054#16 } : State).Sound ∧
    ({ sending 11#4 1#16 with held := some 0x0054#16 } : State).script = [] ∧ (0x0054#16).toNat < 1024 :=
  ⟨⟨⟨rfl, rfl, by decide, by decide, by decide, rfl⟩, trivial, ⟨by decide, by decide⟩⟩, rfl, by decide⟩

theorem witness_ReceivedFrameIsTheSampledLevels :
    ({ ready with rxPrev := true, line := false :: List.replicate 46 true } : State).Sound ∧
    11 * ready.rxDiv.toNat + ready.rxDiv.toNat / 2 ≤ (List.replicate 46 true).length ∧
    (List.replicate 46 true).getD 45 true = true ∧ (List.replicate 46 false).getD 45 true = false :=
  ⟨⟨rfl, trivial, ⟨by decide, by decide⟩⟩, by decide, by decide, by decide⟩

theorem witness_WordCrossesTheWire :
    ({ ready with txFull := true, txSlot := 0x34A#10 } : State).Sound ∧ ({ ready with rxPrev := true } : State).Sound ∧
    ready.txDiv.toNat = 4 ∧ ready.rxDiv.toNat = 4 ∧ ready.txState = .idle ∧ ready.rxState = .idle :=
  ⟨⟨rfl, trivial, ⟨by decide, by decide⟩⟩, ⟨rfl, trivial, ⟨by decide, by decide⟩⟩, by decide, by decide, rfl, rfl⟩

theorem witness_FrameWordLayout :
    (frameWordOf (payloadOf true 0x80#8) true).getLsbD (7 + 1) = true ∧ (0x80#8).getLsbD 7 = true ∧
    (frameWordOf (payloadOf true 0x80#8) true).getLsbD 10 = false ∧
    (frameWordOf (payloadOf false 0xFF#8) true).getLsbD 15 = false := by decide

theorem witness_SoundStatesAlwaysTick : ready.Sound ∧ (∃ t, tickAt false ready = .next t) ∧
    (sending 11#4 1#16).Sound ∧ ∃ t, tickAt true (sending 11#4 1#16) = .next t :=
  ⟨sound_ready, ⟨_, rfl⟩, sound_sending, ⟨_, rfl⟩⟩

theorem witness_PlatformIsFixed :
    (nextOf (step { State.reset with clockHz := 1000000, script := [.call (.configure 250000 1#2 0x05#8)] })).map
      (·.clockHz) = some 1000000 := by decide

theorem witness_FramingErrorEndsWhenTheLineReturns :
    (receiving .framingError 1#17 0#4 false).Sound ∧ ReturnsHigh (fun _ => true) ∧
    (∀ k < 3, (fun t : Nat => decide (5 ≤ t)) ((receiving .framingError 1#17 0#4 false).ticks + k) = false) :=
  ⟨⟨rfl, rfl, ⟨by decide, by decide⟩⟩, fun t => ⟨t, Nat.le_refl t, rfl⟩, by decide⟩

end Sys2Proof.Tests
end

/-! # Scope: the two engines, the step, and a word across the wire (`00_scope.md`)

The reasoning rules about one engine's transition come first, then what they say of a tick, then the five statements. -/

namespace Sys2Proof.Machine

variable {s t u v : State} {x : Bool}

/-! ### What each row of the two tables answers (R155, R190): the converses of `txTick_cases` and `rxTick_cases` -/

theorem txTick_of_idle (he : s.en = true) (hs : s.txState = .idle) :
    txTick s = .next (if s.txFull then txBegin s else s) := by
  simp [txTick, runCode, decode_txCode_idle hs, engineExec, execTxIdle, whenSelected, he, hs]

/-- In `T_SHIFT` every phase but the last holds its bit and then emits the next one (R145 to R147). -/
theorem txTick_of_phase (he : s.en = true) (hs : s.txState = .shift) (hi : s.txIdx.toNat ≤ 10) :
    txTick s = .next (txHoldBit s (txEmit s (s.txIdx + 1#4))) := by
  rw [txTick, runCode, decode_txCode_shift hs]
  split_ifs with h0 h9 h10 h11
  · simp [engineExec, execTxStart, whenSelected, txAt, he, hs, h0]
  · have h1 : s.txIdx.toNat ≠ 0 := fun h => h0 (BitVec.eq_of_toNat_eq h)
    have hw : WellFormed (.txData s.txIdx) = true := by simp [WellFormed, h9]; omega
    simp [engineExec, execTxData, whenSelected, txAt, he, hs, hw]
  · simp [engineExec, execTxParity, whenSelected, txAt, he, hs, h10]
  · simp [h11] at hi
  · have : s.txIdx.toNat ≠ 10 := fun h => h10 (BitVec.eq_of_toNat_eq h)
    omega

theorem txTick_of_stop (he : s.en = true) (hs : s.txState = .shift) (hi : s.txIdx = 11#4) :
    txTick s = .next (txHoldBit s (txFinish s)) := by
  simp [txTick, runCode, decode_txCode_shift hs, engineExec, execTxStop, whenSelected, txAt, he, hs, hi]

theorem txTick_of_count (he : s.en = true) (hs : s.txState = .shift) (hi : s.txIdx.toNat ≤ 11)
    (hc : 1 < s.txCnt.toNat) : txTick s = .next (txCount s) := by
  by_cases h11 : s.txIdx = 11#4
  · rw [txTick_of_stop he hs h11, txHoldBit, if_pos hc]
  · have : s.txIdx.toNat ≠ 11 := fun h => h11 (BitVec.eq_of_toNat_eq h)
    rw [txTick_of_phase he hs (by omega), txHoldBit, if_pos hc]

theorem txTick_of_emit (he : s.en = true) (hs : s.txState = .shift) (hi : s.txIdx.toNat ≤ 10)
    (hc : s.txCnt.toNat ≤ 1) : txTick s = .next (txEmit s (s.txIdx + 1#4)) := by
  rw [txTick_of_phase he hs hi, txHoldBit, if_neg (by omega)]

theorem txTick_of_finish (he : s.en = true) (hs : s.txState = .shift) (hi : s.txIdx = 11#4)
    (hc : s.txCnt.toNat ≤ 1) : txTick s = .next (txFinish s) := by
  rw [txTick_of_stop he hs hi, txHoldBit, if_neg (by omega)]

theorem rxTick_of_idle (he : s.en = true) (hs : s.rxState = .idle) :
    rxTick s = .next (rxLatch (if s.rxPrev && !s.rxIn then rxBegin s else s)) := by
  simp [rxTick, runCode, decode, decodeRx, rxStateCode, engineExec, execRxIdle, whenSelected, rxAt, he, hs]

/-- Both counting states count while `rx_cnt > 1` (R173, R175). -/
theorem rxTick_of_count (he : s.en = true) (hs : s.rxState = .sampling ∨ s.rxState = .stopCheck)
    (hc : 1 < s.rxCnt.toNat) : rxTick s = .next (rxLatch (rxCount s)) := by
  have h0 : s.rxCnt ≠ 0#17 := by rintro h; simp [h] at hc
  have h1 : s.rxCnt ≠ 1#17 := by rintro h; simp [h] at hc
  rcases hs with hs | hs
  · simp [rxTick, runCode, decode, decodeRx, rxStateCode, engineExec, execRxSamplingCount, whenSelected, rxAt, *]
  · simp [rxTick, runCode, decode, decodeRx, rxStateCode, engineExec, execRxStopCheckCount, whenSelected, rxAt, *]

theorem rxTick_of_sample (he : s.en = true) (hs : s.rxState = .sampling) (hc : s.rxCnt = 1#17) :
    rxTick s = .next (rxLatch (rxSample s)) := by
  simp [rxTick, runCode, decode, decodeRx, rxStateCode, engineExec, execRxSamplingSample, whenSelected, rxAt, *]

theorem rxTick_of_stopBit (he : s.en = true) (hs : s.rxState = .stopCheck) (hc : s.rxCnt = 1#17) :
    rxTick s = .next (rxLatch (if s.rxIn then rxToIdle (deliver s) else raiseFramingError s)) := by
  cases hx : s.rxIn
  · simp [rxTick, runCode, decode, decodeRx, rxStateCode, engineExec, execRxStopCheckLow, whenSelected, rxAt, *]
  · simp [rxTick, runCode, decode, decodeRx, rxStateCode, engineExec, execRxStopCheckHigh, stopHighSelected,
      whenSelected, rxAt, *]

theorem rxTick_of_framingError (he : s.en = true) (hs : s.rxState = .framingError) :
    rxTick s = .next (rxLatch (if s.rxIn then rxToIdle s else s)) := by
  simp [rxTick, runCode, decode, decodeRx, rxStateCode, engineExec, execRxFramingError, whenSelected, rxAt, he, hs]

/-! ### What the engines write (R14) -/

/-- `t` differs from `s` at most in the registers the transmitter writes. -/
def WritesOnlyTx (s t : State) : Prop :=
  t = { s with txFull := t.txFull, txState := t.txState, txIdx := t.txIdx, txCnt := t.txCnt, txOut := t.txOut }

/-- `t` differs from `s` at most in the registers the receiver writes. -/
def WritesOnlyRx (s t : State) : Prop :=
  t = { s with
    rxState := t.rxState, rxPrev := t.rxPrev, rxCnt := t.rxCnt, rxBits := t.rxBits, rxShift := t.rxShift,
    rxSlot := t.rxSlot, rxValid := t.rxValid, rxFerr := t.rxFerr }

theorem writesOnlyTx_txHoldBit (h : WritesOnlyTx s u) : WritesOnlyTx s (txHoldBit s u) := by
  rcases txHoldBit_cases s u with ⟨-, e⟩ | ⟨-, e⟩ <;> rw [e]
  · rfl
  · exact h

/-- The five transmit transitions write the transmitter's registers only. -/
theorem exec_tx_writesOnlyTx {i : Instr} (h : exec i s = .next t)
    (hi : i = .txIdle ∨ i = .txStart ∨ (∃ k, i = .txData k) ∨ i = .txParity ∨ i = .txStop) : WritesOnlyTx s t := by
  rcases hi with rfl | rfl | ⟨k, rfl⟩ | rfl | rfl <;> obtain ⟨-, rfl⟩ := whenSelected_eq_next.mp h
  case inl => split <;> rfl
  all_goals exact writesOnlyTx_txHoldBit rfl

/-- The eight receive rows write the receiver's registers only. -/
theorem exec_rx_writesOnlyRx {i : Instr} (h : exec i s = .next t)
    (hi : i = .rxIdle ∨ i = .rxSamplingCount ∨ i = .rxSamplingSample ∨ i = .rxStopCheckCount ∨ i = .rxStopCheckHigh ∨
      i = .rxDeliver ∨ i = .rxStopCheckLow ∨ i = .rxFramingError) : WritesOnlyRx s t := by
  rcases hi with rfl | rfl | rfl | rfl | rfl | rfl | rfl | rfl <;> obtain ⟨-, rfl⟩ := whenSelected_eq_next.mp h
  case inl | inr.inr.inr.inr.inr.inr.inr => split <;> rfl
  all_goals rfl

/-- Settles O31: each transition is a guarded update, and each update names registers of its own engine only. -/
theorem enginesWriteOnlyTheirOwn : Obligations.EnginesWriteOnlyTheirOwn :=
  fun _ _ _ h => ⟨exec_tx_writesOnlyTx h, exec_rx_writesOnlyRx h⟩

/-! ### What the engines read (R14) -/

/-- `b` agrees with `a` on `EN` and on all that the transmitter reads or writes. -/
structure TxAgree (a b : State) : Prop where
  en : b.en = a.en
  txDiv : b.txDiv = a.txDiv
  txSlot : b.txSlot = a.txSlot
  txFull : b.txFull = a.txFull
  txState : b.txState = a.txState
  txIdx : b.txIdx = a.txIdx
  txCnt : b.txCnt = a.txCnt
  txOut : b.txOut = a.txOut

/-- `b` agrees with `a` on `EN` and on all that the receiver reads or writes, the input level with it. -/
structure RxAgree (a b : State) : Prop where
  en : b.en = a.en
  rxDiv : b.rxDiv = a.rxDiv
  rxIn : b.rxIn = a.rxIn
  rxState : b.rxState = a.rxState
  rxPrev : b.rxPrev = a.rxPrev
  rxCnt : b.rxCnt = a.rxCnt
  rxBits : b.rxBits = a.rxBits
  rxShift : b.rxShift = a.rxShift
  rxSlot : b.rxSlot = a.rxSlot
  rxValid : b.rxValid = a.rxValid
  rxFerr : b.rxFerr = a.rxFerr

section
variable {a b a' : State}

theorem TxAgree.txCount (h : TxAgree a b) : TxAgree (txCount a) (txCount b) :=
  { h with txCnt := congrArg (· - 1#16) h.txCnt }

theorem TxAgree.txBegin (h : TxAgree a b) : TxAgree (txBegin a) (txBegin b) :=
  { h with txState := rfl, txIdx := rfl, txCnt := h.txDiv, txOut := rfl }

theorem TxAgree.txFinish (h : TxAgree a b) : TxAgree (txFinish a) (txFinish b) :=
  { h with txState := rfl, txFull := rfl }

theorem TxAgree.txEmit (h : TxAgree a b) (i : BitVec 4) : TxAgree (txEmit a i) (txEmit b i) :=
  { h with txIdx := rfl, txCnt := h.txDiv, txOut := congrArg (wireBit · i) h.txSlot }

theorem RxAgree.rxLatch (h : RxAgree a b) : RxAgree (rxLatch a) (rxLatch b) := { h with rxPrev := h.rxIn }

theorem RxAgree.rxCount (h : RxAgree a b) : RxAgree (rxCount a) (rxCount b) :=
  { h with rxCnt := congrArg (· - 1#17) h.rxCnt }

theorem RxAgree.rxBegin (h : RxAgree a b) : RxAgree (rxBegin a) (rxBegin b) :=
  { h with rxState := rfl, rxCnt := congrArg firstSampleDelay h.rxDiv, rxBits := rfl, rxShift := rfl }

theorem RxAgree.rxSample (h : RxAgree a b) : RxAgree (rxSample a) (rxSample b) :=
  { h with
    rxShift := congrArg₂ shiftIn h.rxIn h.rxShift
    rxBits := congrArg (· - 1#4) h.rxBits
    rxCnt := congrArg (BitVec.setWidth 17) h.rxDiv
    rxState := by simp [Machine.rxSample, h.rxBits, h.rxState] }

theorem RxAgree.deliver (h : RxAgree a b) : RxAgree (deliver a) (deliver b) :=
  { h with rxSlot := h.rxShift, rxValid := rfl }

theorem RxAgree.rxToIdle (h : RxAgree a b) : RxAgree (rxToIdle a) (rxToIdle b) := { h with rxState := rfl }

theorem RxAgree.raiseFramingError (h : RxAgree a b) : RxAgree (raiseFramingError a) (raiseFramingError b) :=
  { h with rxFerr := rfl, rxState := rfl }

theorem TxAgree.txHoldBit {ea eb : State} (h : TxAgree a b) (he : TxAgree ea eb) :
    TxAgree (txHoldBit a ea) (txHoldBit b eb) := by
  simp only [Machine.txHoldBit, h.txCnt]
  split
  · exact h.txCount
  · exact he

/-- The transmitter reads nothing but what `TxAgree` lists. -/
theorem TxAgree.txTick (h : TxAgree a b) (ha : txTick a = .next a') : ∃ b', txTick b = .next b' ∧ TxAgree a' b' := by
  have he : b.en = true := h.en.trans (txTick_cases ha).1
  rcases (txTick_cases ha).2 with ⟨hs, hf, e⟩ | ⟨hs, hf, e⟩ | ⟨hs, hi, hc, e⟩ | ⟨hs, hi, hc, e⟩ | ⟨hs, hi, hc, e⟩ <;>
    subst e
  · exact ⟨b, by simp [txTick_of_idle he (h.txState.trans hs), h.txFull, hf], h⟩
  · exact ⟨_, by simp [txTick_of_idle he (h.txState.trans hs), h.txFull, hf], h.txBegin⟩
  · exact ⟨_, txTick_of_count he (h.txState.trans hs) (h.txIdx ▸ hi) (h.txCnt ▸ hc), h.txCount⟩
  · exact ⟨_, txTick_of_emit he (h.txState.trans hs) (h.txIdx ▸ hi) (h.txCnt ▸ hc), h.txIdx ▸ h.txEmit _⟩
  · exact ⟨_, txTick_of_finish he (h.txState.trans hs) (h.txIdx.trans hi) (h.txCnt ▸ hc), h.txFinish⟩

/-- The receiver reads nothing but what `RxAgree` lists. -/
theorem RxAgree.rxTick (h : RxAgree a b) (ha : rxTick a = .next a') : ∃ b', rxTick b = .next b' ∧ RxAgree a' b' := by
  have he : b.en = true := h.en.trans (rxTick_cases ha).1
  rcases (rxTick_cases ha).2 with ⟨hs, hp, hx, e⟩ | ⟨hs, hw, e⟩ | ⟨hs, hc, e⟩ | ⟨hs, hc, e⟩ | ⟨hs, hc, e⟩ |
    ⟨hs, hc, hx, e⟩ | ⟨hs, hc, hx, e⟩ | ⟨hs, hx, e⟩ | ⟨hs, hx, e⟩ <;> subst e <;> have hs := h.rxState.trans hs
  · exact ⟨_, by simp [rxTick_of_idle he hs, h.rxPrev, h.rxIn, hp, hx], h.rxBegin.rxLatch⟩
  · exact ⟨_, by rcases hw with hw | hw <;> simp [rxTick_of_idle he hs, h.rxPrev, h.rxIn, hw], h.rxLatch⟩
  · exact ⟨_, rxTick_of_count he (.inl hs) (h.rxCnt ▸ hc), h.rxCount.rxLatch⟩
  · exact ⟨_, rxTick_of_sample he hs (h.rxCnt.trans hc), h.rxSample.rxLatch⟩
  · exact ⟨_, rxTick_of_count he (.inr hs) (h.rxCnt ▸ hc), h.rxCount.rxLatch⟩
  · exact ⟨_, by simp [rxTick_of_stopBit he hs (h.rxCnt.trans hc), h.rxIn, hx], h.deliver.rxToIdle.rxLatch⟩
  · exact ⟨_, by simp [rxTick_of_stopBit he hs (h.rxCnt.trans hc), h.rxIn, hx], h.raiseFramingError.rxLatch⟩
  · exact ⟨_, by simp [rxTick_of_framingError he hs, h.rxIn, hx], h.rxToIdle.rxLatch⟩
  · exact ⟨_, by simp [rxTick_of_framingError he hs, h.rxIn, hx], h.rxLatch⟩

end

/-- Settles O32: a transition of either engine is a function of what its engine holds. -/
theorem enginesAreBlindToEachOther : Obligations.EnginesAreBlindToEachOther := by
  refine ⟨fun a b a' he hd hs hf hst hi hc ho ha => ?_,
    fun a b a' he hd hx hst hp hc hb hsh hsl hv hf ha => ?_⟩
  · obtain ⟨b', hb', h⟩ := TxAgree.txTick ⟨he, hd, hs, hf, hst, hi, hc, ho⟩ ha
    exact ⟨b', hb', h.txFull, h.txState, h.txIdx, h.txCnt, h.txOut⟩
  · obtain ⟨b', hb', h⟩ := RxAgree.rxTick ⟨he, hd, hx, hst, hp, hc, hb, hsh, hsl, hv, hf⟩ ha
    exact ⟨b', hb', h.rxState, h.rxPrev, h.rxCnt, h.rxBits, h.rxShift, h.rxSlot, h.rxValid, h.rxFerr⟩

/-! ### A step and a tick run what the codes select (R12, R13) -/

/-- Settles O33: with no held write the step is the script's, and an access or a call runs what its code decodes to. -/
theorem stepRunsTheDecodedOperation : Obligations.StepRunsTheDecodedOperation := by
  intro s rest i hh
  refine ⟨fun cmd hs hd => ?_, fun c hs hd => ?_⟩ <;> simp only [step, turn, hh, scriptTurn, hs, fetched, hd]

/-- The transmit engine's transition at a tick is the operation its code decodes to. -/
theorem txTick_eq_exec {i : Instr} (h : decode (.tx (txCode s)) = .ok i) : txTick s = exec i s := by
  simp only [txTick, runCode, h]
  simp only [decode, decodeTx] at h
  split_ifs at h <;> cases h <;> rfl

/-- The receive engine's transition at a tick is the operation its code, counter and level decode to. -/
theorem rxTick_eq_exec {j : Instr} (h : decode (.rx (rxStateCode s.rxState) s.rxCnt s.rxIn) = .ok j) :
    rxTick s = exec j s := by
  simp only [rxTick, runCode, h]
  cases hs : s.rxState <;> simp only [decode, decodeRx, hs, rxStateCode] at h
  case idle | framingError => cases h; rfl
  case sampling | stopCheck => split_ifs at h <;> cases h <;> rfl

/-- A tick with `EN = 1` is the transmitter's transition, then the receiver's, then the sight of `tx_out`. -/
theorem tickAt_of_en (x : Bool) (he : s.en = true) :
    tickAt x s = andThen (andThen (txTick (beginTick s x)) rxTick) fun t => .next (endTick t) := by
  simp [tickAt, he]

/-- Settles O34: a tick line, or an empty script, is one tick; and a tick runs what the two codes decode to. -/
theorem stepTicksBothEngines : Obligations.StepTicksBothEngines := by
  refine ⟨fun s rest hh hs => ?_, fun s hh hs => ?_, fun s s0 u i j he h0 hi hu hj => ?_⟩
  · simp only [step, turn, hh, scriptTurn, hs]
  · simp only [step, turn, hh, scriptTurn, hs]
  · obtain rfl : s0 = beginTick s (nextLevel s) := h0
    rw [tick, tickAt_of_en _ he, txTick_eq_exec hi, hu, andThen_next, rxTick_eq_exec hj]
    rfl

/-! ### What a tick does to each engine's registers -/

theorem TxAgree.symm {a b : State} (h : TxAgree a b) : TxAgree b a :=
  ⟨h.en.symm, h.txDiv.symm, h.txSlot.symm, h.txFull.symm, h.txState.symm, h.txIdx.symm, h.txCnt.symm, h.txOut.symm⟩

theorem RxAgree.symm {a b : State} (h : RxAgree a b) : RxAgree b a :=
  ⟨h.en.symm, h.rxDiv.symm, h.rxIn.symm, h.rxState.symm, h.rxPrev.symm, h.rxCnt.symm, h.rxBits.symm, h.rxShift.symm,
    h.rxSlot.symm, h.rxValid.symm, h.rxFerr.symm⟩

theorem WritesOnlyTx.rxAgree (h : WritesOnlyTx s t) : RxAgree s t := by
  rw [h]; constructor <;> rfl

theorem WritesOnlyRx.txAgree (h : WritesOnlyRx s t) : TxAgree s t := by
  rw [h]; constructor <;> rfl

theorem txTick_writesOnlyTx (h : txTick s = .next t) : WritesOnlyTx s t := by
  rcases (txTick_cases h).2 with ⟨-, -, rfl⟩ | ⟨-, -, rfl⟩ | ⟨-, -, -, rfl⟩ | ⟨-, -, -, rfl⟩ | ⟨-, -, -, rfl⟩ <;> rfl

theorem rxTick_writesOnlyRx (h : rxTick s = .next t) : WritesOnlyRx s t := by
  rcases (rxTick_cases h).2 with ⟨-, -, -, rfl⟩ | ⟨-, -, rfl⟩ | ⟨-, -, rfl⟩ | ⟨-, -, rfl⟩ | ⟨-, -, rfl⟩ |
    ⟨-, -, -, rfl⟩ | ⟨-, -, -, rfl⟩ | ⟨-, -, rfl⟩ | ⟨-, -, rfl⟩ <;> rfl

/-- After a tick the transmitter's registers are those its own transition gives. -/
theorem tickAt_txAgree (he : s.en = true) (h : tickAt x s = .next t) (hu : txTick (beginTick s x) = .next u) :
    TxAgree u t := by
  rw [tickAt_of_en x he, hu, andThen_next, andThen_eq_next] at h
  obtain ⟨v, hv, h⟩ := h
  cases h
  exact { (rxTick_writesOnlyRx hv).txAgree with }

/-- After a tick the receiver's registers are those its own transition gives, although the transmitter goes first. -/
theorem tickAt_rxAgree (he : s.en = true) (h : tickAt x s = .next t) (hv : rxTick (beginTick s x) = .next v) :
    RxAgree v t := by
  rw [tickAt_of_en x he, andThen_eq_next] at h
  obtain ⟨w, hw, h⟩ := h
  obtain ⟨u, hu, hw⟩ := andThen_eq_next.mp hw
  obtain ⟨w', hw', hvw⟩ := (txTick_writesOnlyTx hu).rxAgree.rxTick hv
  cases hw.symm.trans hw'
  cases h
  exact { hvw with }

/-! ### A tick of a sound state: there is one, and it is sound (R33) -/

theorem txSound_of_shift (h : s.TxSound) (hs : s.txState = .shift) :
    s.txFull = true ∧ s.en = true ∧ s.txIdx.toNat ≤ 11 ∧ 1 ≤ s.txCnt.toNat ∧ s.txCnt.toNat ≤ s.txDiv.toNat ∧
      s.txOut = wireBit s.txSlot s.txIdx := by
  simpa only [State.TxSound, hs] using h

theorem rxSound_of_sampling (h : s.RxSound) (hs : s.rxState = .sampling) :
    s.en = true ∧ 1 ≤ s.rxBits.toNat ∧ s.rxBits.toNat ≤ 10 ∧ 1 ≤ s.rxCnt.toNat ∧
      s.rxCnt.toNat ≤ s.rxDiv.toNat + s.rxDiv.toNat / 2 := by
  simpa only [State.RxSound, hs] using h

theorem rxSound_of_stopCheck (h : s.RxSound) (hs : s.rxState = .stopCheck) :
    s.en = true ∧ s.rxBits = 0#4 ∧ 1 ≤ s.rxCnt.toNat ∧ s.rxCnt.toNat ≤ s.rxDiv.toNat := by
  simpa only [State.RxSound, hs] using h

theorem enSound_of_en (h : s.EnSound) (he : s.en = true) : 2 ≤ s.txDiv.toNat ∧ 2 ≤ s.rxDiv.toNat := by
  simpa only [State.EnSound, he] using h

theorem TxAgree.txSound {a b : State} (h : TxAgree a b) (ha : a.TxSound) : b.TxSound := by
  simpa only [State.TxSound, h.en, h.txDiv, h.txSlot, h.txFull, h.txState, h.txIdx, h.txCnt, h.txOut] using ha

theorem RxAgree.rxSound {a b : State} (h : RxAgree a b) (ha : a.RxSound) : b.RxSound := by
  simpa only [State.RxSound, h.en, h.rxDiv, h.rxState, h.rxCnt, h.rxBits] using ha

theorem txTick_total (h : s.TxSound) (he : s.en = true) : ∃ t, txTick s = .next t := by
  cases hs : s.txState with
  | idle => exact ⟨_, txTick_of_idle he hs⟩
  | shift =>
    obtain ⟨-, -, hi, -⟩ := txSound_of_shift h hs
    by_cases h10 : s.txIdx.toNat ≤ 10
    · exact ⟨_, txTick_of_phase he hs h10⟩
    · exact ⟨_, txTick_of_stop he hs (BitVec.eq_of_toNat_eq (by simp; omega))⟩

theorem rxTick_total (h : s.RxSound) (he : s.en = true) : ∃ t, rxTick s = .next t := by
  cases hs : s.rxState with
  | idle => exact ⟨_, rxTick_of_idle he hs⟩
  | framingError => exact ⟨_, rxTick_of_framingError he hs⟩
  | sampling =>
    obtain ⟨-, -, -, hc, -⟩ := rxSound_of_sampling h hs
    by_cases h1 : s.rxCnt = 1#17
    · exact ⟨_, rxTick_of_sample he hs h1⟩
    · exact ⟨_, rxTick_of_count he (.inl hs) (by bv_omega)⟩
  | stopCheck =>
    obtain ⟨-, -, hc, -⟩ := rxSound_of_stopCheck h hs
    by_cases h1 : s.rxCnt = 1#17
    · exact ⟨_, rxTick_of_stopBit he hs h1⟩
    · exact ⟨_, rxTick_of_count he (.inr hs) (by bv_omega)⟩

/-- A sound state's tick has a next state, at either level. -/
theorem tickAt_total (h : s.Sound) (x : Bool) : ∃ t, tickAt x s = .next t := by
  obtain ⟨htx, hrx, -⟩ := h
  cases he : s.en with
  | false => exact ⟨_, by simp [tickAt, he]; rfl⟩
  | true =>
    obtain ⟨u, hu⟩ := txTick_total (s := beginTick s x) htx he
    have hb := (txTick_writesOnlyTx hu).rxAgree
    obtain ⟨v, hv⟩ := rxTick_total (hb.rxSound hrx) (hb.en.trans he)
    exact ⟨_, by rw [tickAt_of_en x he, hu, andThen_next, hv, andThen_next]⟩

theorem txTick_txSound (h : s.TxSound) (hd : 2 ≤ s.txDiv.toNat) (ht : txTick s = .next t) : t.TxSound := by
  obtain ⟨he, row⟩ := txTick_cases ht
  rcases row with ⟨hs, hf, rfl⟩ | ⟨hs, hf, rfl⟩ | ⟨hs, hi, hc, rfl⟩ | ⟨hs, hi, hc, rfl⟩ | ⟨hs, hi, hc, rfl⟩
  · exact h
  · exact ⟨hf, he, Nat.zero_le _, by simp; omega, le_rfl, by simp [wireBit]⟩
  all_goals obtain ⟨hf, -, -, h1, hle, ho⟩ := txSound_of_shift h hs
  · simp only [State.TxSound, txCount_txState, hs]
    exact ⟨hf, he, hi, by simp; bv_omega, by simp; bv_omega, ho⟩
  · simp only [State.TxSound, txEmit_txState, hs]
    exact ⟨hf, he, by simp; omega, by simp; omega, le_rfl, rfl⟩
  · simp only [State.TxSound, txFinish_txState, txFinish_txOut, ho, hi]
    simp [wireBit]

theorem firstSampleDelay_toNat (d : BitVec 16) : (firstSampleDelay d).toNat = d.toNat + d.toNat / 2 := by
  simp [firstSampleDelay, Nat.shiftRight_eq_div_pow]; omega

theorem rxSample_rxCnt_toNat (s : State) : (rxSample s).rxCnt.toNat = s.rxDiv.toNat := by
  simp; omega

theorem rxTick_rxSound (h : s.RxSound) (hd : 2 ≤ s.rxDiv.toNat) (ht : rxTick s = .next t) : t.RxSound := by
  obtain ⟨he, row⟩ := rxTick_cases ht
  rcases row with ⟨hs, hp, hx, rfl⟩ | ⟨hs, hw, rfl⟩ | ⟨hs, hc, rfl⟩ | ⟨hs, hc, rfl⟩ | ⟨hs, hc, rfl⟩ |
    ⟨hs, hc, hx, rfl⟩ | ⟨hs, hc, hx, rfl⟩ | ⟨hs, hx, rfl⟩ | ⟨hs, hx, rfl⟩
  · exact ⟨he, by simp, by simp, by simp [firstSampleDelay_toNat]; omega, by simp [firstSampleDelay_toNat]⟩
  · simp [State.RxSound, hs]
  · obtain ⟨-, hb, hb', h1, hle⟩ := rxSound_of_sampling h hs
    simp only [State.RxSound, rxLatch_rxState, rxCount_rxState, hs]
    exact ⟨he, hb, hb', by simp; bv_omega, by simp; bv_omega⟩
  · obtain ⟨-, hb, hb', h1, hle⟩ := rxSound_of_sampling h hs
    have hcnt := rxSample_rxCnt_toNat s
    by_cases hlast : s.rxBits = 1#4
    · simp only [State.RxSound, rxLatch_rxState, rxSample_rxState, hlast]
      exact ⟨he, by simp [hlast], hcnt.symm.le.trans' (by omega), hcnt.le⟩
    · simp only [State.RxSound, rxLatch_rxState, rxSample_rxState, hlast, hs]
      exact ⟨he, by simp; bv_omega, by simp; bv_omega, hcnt.symm.le.trans' (by omega),
        hcnt.le.trans (Nat.le_add_right _ _)⟩
  · obtain ⟨-, hb, h1, hle⟩ := rxSound_of_stopCheck h hs
    simp only [State.RxSound, rxLatch_rxState, rxCount_rxState, hs]
    exact ⟨he, hb, by simp; bv_omega, by simp; bv_omega⟩
  · trivial
  · exact he
  · trivial
  · simpa [State.RxSound, hs] using he

/-- A tick keeps the invariants, at either level. -/
theorem tickAt_sound (h : s.Sound) (ht : tickAt x s = .next t) : t.Sound := by
  obtain ⟨htx, hrx, hen⟩ := h
  cases he : s.en with
  | false =>
    simp only [State.EnSound, he] at hen
    simp only [tickAt, beginTick_en, he, Bool.false_eq_true, ↓reduceIte, andThen_next] at ht
    cases ht
    exact ⟨htx, hrx, by simp [State.EnSound, he, hen]⟩
  | true =>
    obtain ⟨hd, hd'⟩ := enSound_of_en hen he
    obtain ⟨u, hu⟩ := txTick_total (s := beginTick s x) htx he
    obtain ⟨v, hv⟩ := rxTick_total (s := beginTick s x) hrx he
    obtain ⟨hten, htd, htd', -⟩ := tickAt_frame ht
    exact ⟨(tickAt_txAgree he ht hu).txSound (txTick_txSound (s := beginTick s x) htx hd hu),
      (tickAt_rxAgree he ht hv).rxSound (rxTick_rxSound (s := beginTick s x) hrx hd' hv),
      by simp [State.EnSound, hten, he, htd, htd', hd, hd']⟩

/-! ### The transmitter's place in the frame -/

/-- In `T_SHIFT`, the ticks since the start bit came on the line. -/
def txElapsed (s : State) : Nat := s.txIdx.toNat * s.txDiv.toNat + (s.txDiv.toNat - s.txCnt.toNat)

theorem txElapsed_div (h : s.Sound) (hs : s.txState = .shift) : txElapsed s / s.txDiv.toNat = s.txIdx.toNat := by
  obtain ⟨-, -, -, h1, hle, -⟩ := txSound_of_shift h.1 hs
  rw [txElapsed, Nat.mul_comm, Nat.mul_add_div (by omega), Nat.div_eq_of_lt (by omega), Nat.add_zero]

/-- The level on the line follows from the ticks elapsed alone (R150). -/
theorem txOut_of_shift (h : s.Sound) (hs : s.txState = .shift) :
    s.txOut = wireBit s.txSlot (BitVec.ofNat 4 (txElapsed s / s.txDiv.toNat)) := by
  obtain ⟨-, -, -, -, -, ho⟩ := txSound_of_shift h.1 hs
  simp [txElapsed_div h hs, ho]

theorem tickAt_txBegin (he : s.en = true) (hs : s.txState = .idle) (hf : s.txFull = true)
    (ht : tickAt x s = .next t) : t.txState = .shift ∧ txElapsed t = 0 := by
  have h := tickAt_txAgree he ht (txTick_of_idle he hs)
  simp only [beginTick_txFull, hf, ↓reduceIte] at h
  exact ⟨h.txState, by simp [txElapsed, h.txIdx, h.txCnt, h.txDiv]⟩

/-- Until the last tick of the stop bit the transmitter stays in the frame, one tick on. -/
theorem tickAt_txElapsed (h : s.Sound) (hs : s.txState = .shift) (hlast : txElapsed s + 1 < 12 * s.txDiv.toNat)
    (ht : tickAt x s = .next t) : t.txState = .shift ∧ txElapsed t = txElapsed s + 1 := by
  obtain ⟨-, he, hi, h1, hle, -⟩ := txSound_of_shift h.1 hs
  by_cases hc : 1 < s.txCnt.toNat
  · have g := tickAt_txAgree he ht (txTick_of_count (s := beginTick s x) he hs hi hc)
    refine ⟨g.txState.trans hs, ?_⟩
    simp only [txElapsed, g.txIdx, g.txCnt, g.txDiv]
    simp
    bv_omega
  · have hi : s.txIdx.toNat ≤ 10 := by
      by_contra hi
      have : s.txIdx.toNat = 11 := by omega
      simp only [txElapsed, this] at hlast
      omega
    have g := tickAt_txAgree he ht (txTick_of_emit (s := beginTick s x) he hs hi (by simpa using hc))
    refine ⟨g.txState.trans hs, ?_⟩
    have hn : (s.txIdx + 1#4).toNat = s.txIdx.toNat + 1 := by bv_omega
    simp only [txElapsed, g.txIdx, g.txCnt, g.txDiv]
    simp [hn, Nat.succ_mul]
    omega

/-! ### The receiver's place in the frame -/

/-- In `SAMPLING` and `STOP_CHECK`, the ticks to come up to and with the one that takes the stop bit. -/
def rxRemaining (s : State) : Nat := s.rxBits.toNat * s.rxDiv.toNat + s.rxCnt.toNat

/-- The receiver is within a frame, and holds the levels of the data bits it has sampled, the first at the bottom. -/
structure Receiving (level : Nat → Bool) (s : State) : Prop where
  state : s.rxState = .sampling ∨ s.rxState = .stopCheck
  bits : ∀ k, s.rxBits.toNat + k < 10 → s.rxShift.getLsbD (s.rxBits.toNat + k) = level k

/-- What a tick of the receiver leaves to the host's side: the slot, its occupancy and the flag. -/
structure SameDelivery (s t : State) : Prop where
  rxSlot : t.rxSlot = s.rxSlot
  rxValid : t.rxValid = s.rxValid
  rxFerr : t.rxFerr = s.rxFerr

/-- Both states of a frame hold what the two parts of R33 share. -/
theorem Receiving.sound {level : Nat → Bool} (h : Receiving level s) (hs : s.Sound) :
    s.en = true ∧ 2 ≤ s.rxDiv.toNat ∧ s.rxBits.toNat ≤ 10 ∧ 1 ≤ s.rxCnt.toNat ∧
      (s.rxState = .stopCheck ↔ s.rxBits.toNat = 0) := by
  obtain ⟨-, hrx, hen⟩ := hs
  rcases h.state with hst | hst
  · obtain ⟨he, hb, hb', hc, -⟩ := rxSound_of_sampling hrx hst
    exact ⟨he, (enSound_of_en hen he).2, hb', hc, by simp [hst]; omega⟩
  · obtain ⟨he, hb, hc, -⟩ := rxSound_of_stopCheck hrx hst
    exact ⟨he, (enSound_of_en hen he).2, by simp [hb], hc, by simp [hst, hb]⟩

theorem getLsbD_shiftIn (x : Bool) (w : FrameWord) (i : Nat) (hi : i < 10) :
    (shiftIn x w).getLsbD i = if i = 9 then x else w.getLsbD (i + 1) := by
  rw [shiftIn, BitVec.getLsbD_cons]
  split_ifs with h
  · rfl
  · rw [BitVec.getLsbD_extractLsb', decide_eq_true (by omega), Bool.true_and, Nat.add_comm]

/-- The start edge: ten data bits and a stop bit to come (R172). -/
theorem tickAt_rxBegin (level : Nat → Bool) (he : s.en = true) (hs : s.rxState = .idle) (hp : s.rxPrev = true)
    (ht : tickAt false s = .next t) :
    Receiving level t ∧ rxRemaining t = 11 * s.rxDiv.toNat + s.rxDiv.toNat / 2 ∧ SameDelivery s t := by
  have h := tickAt_rxAgree he ht (rxTick_of_idle he hs)
  simp only [beginTick_rxPrev, beginTick_rxIn, hp, Bool.not_false, Bool.and_self, ↓reduceIte] at h
  refine ⟨⟨.inl h.rxState, fun k hk => ?_⟩, ?_, ⟨h.rxSlot, h.rxValid, h.rxFerr⟩⟩
  · rw [h.rxBits] at hk
    simp at hk
  · simp only [rxRemaining, h.rxBits, h.rxCnt, h.rxDiv]
    simp [firstSampleDelay_toNat]
    omega

/-- While `rx_cnt > 1` a tick only counts (R173, R175). -/
theorem Receiving.tickAt_count {level : Nat → Bool} (h : Receiving level s) (he : s.en = true)
    (hc : 1 < s.rxCnt.toNat) (ht : tickAt x s = .next t) :
    Receiving level t ∧ rxRemaining s = rxRemaining t + 1 ∧ SameDelivery s t := by
  have g := tickAt_rxAgree he ht (rxTick_of_count (s := beginTick s x) he h.state hc)
  refine ⟨⟨g.rxState ▸ h.state, by rw [g.rxBits, g.rxShift]; exact h.bits⟩, ?_, ⟨g.rxSlot, g.rxValid, g.rxFerr⟩⟩
  simp only [rxRemaining, g.rxBits, g.rxCnt, g.rxDiv, rxLatch_rxCnt, rxCount_rxCnt, beginTick_rxCnt]
  simp
  bv_omega

/-- At `rx_cnt = 1` the tick adds the level of the next data bit, and one bit period is ahead (R174). -/
theorem Receiving.tickAt_sample {level : Nat → Bool} (h : Receiving level s) (he : s.en = true)
    (hs : s.rxState = .sampling) (hc : s.rxCnt = 1#17) (hb : 1 ≤ s.rxBits.toNat)
    (hx : ∀ k, s.rxBits.toNat + k = 10 → x = level k) (ht : Machine.tickAt x s = .next t) :
    Receiving level t ∧ rxRemaining s = rxRemaining t + 1 ∧ SameDelivery s t := by
  have g := tickAt_rxAgree he ht (rxTick_of_sample (s := beginTick s x) he hs hc)
  have hbits : s.rxBits.toNat = t.rxBits.toNat + 1 := by
    rw [g.rxBits, rxLatch_rxBits, rxSample_rxBits, beginTick_rxBits]
    bv_omega
  refine ⟨⟨?_, fun k hk => ?_⟩, ?_, ⟨g.rxSlot, g.rxValid, g.rxFerr⟩⟩
  · rw [g.rxState]
    by_cases hlast : s.rxBits = 1#4 <;> simp [hs, hlast]
  · rw [g.rxShift, rxLatch_rxShift, rxSample_rxShift, getLsbD_shiftIn _ _ _ hk]
    split_ifs with h9
    · exact hx k (by omega)
    · rw [beginTick_rxShift, ← h.bits k (by omega), hbits, Nat.add_right_comm]
  · simp only [rxRemaining, g.rxCnt, g.rxDiv, rxLatch_rxCnt, rxSample_rxCnt_toNat, hc, hbits, Nat.succ_mul]
    rfl

/-- Before the stop bit a tick takes the receiver one tick on; the tick that samples data bit `k` hears `level k`. -/
theorem Receiving.tickAt {level : Nat → Bool} (h : Receiving level s) (hs : s.Sound) (hr : rxRemaining s ≠ 1)
    (hx : ∀ k < 10, rxRemaining s = (10 - k) * s.rxDiv.toNat + 1 → x = level k) (ht : tickAt x s = .next t) :
    Receiving level t ∧ rxRemaining s = rxRemaining t + 1 ∧ SameDelivery s t := by
  obtain ⟨he, hd, hb, hc, hz⟩ := h.sound hs
  by_cases hc1 : 1 < s.rxCnt.toNat
  · exact h.tickAt_count he hc1 ht
  · have hc1 : s.rxCnt = 1#17 := by bv_omega
    have hb1 : s.rxBits.toNat ≠ 0 := fun h0 => hr (by simp [rxRemaining, h0, hc1])
    refine h.tickAt_sample he (h.state.resolve_right fun h' => hb1 (hz.mp h')) hc1 (by omega) (fun k hk => ?_) ht
    exact hx k (by omega) (by rw [rxRemaining, hc1, show 10 - k = s.rxBits.toNat by omega]; rfl)

/-- The last tick of a frame: a high stop bit delivers the ten levels at once (R176, R177). -/
theorem Receiving.tickAt_stopHigh {level : Nat → Bool} (h : Receiving level s) (hs : s.Sound) (hr : rxRemaining s = 1)
    (ht : Machine.tickAt true s = .next t) :
    t.rxState = .idle ∧ t.rxValid = true ∧ t.rxFerr = s.rxFerr ∧ ∀ k < 10, t.rxSlot.getLsbD k = level k := by
  obtain ⟨he, hd, hb, hc, hz⟩ := h.sound hs
  have hb0 : s.rxBits.toNat = 0 := by
    by_contra h0
    have := Nat.mul_le_mul (Nat.one_le_iff_ne_zero.mpr h0) hd
    simp only [rxRemaining] at hr
    omega
  have hc1 : s.rxCnt = 1#17 := by
    simp only [rxRemaining, hb0] at hr
    bv_omega
  have g := tickAt_rxAgree he ht (rxTick_of_stopBit (s := beginTick s true) he (hz.mpr hb0) hc1)
  simp only [beginTick_rxIn, ↓reduceIte] at g
  refine ⟨g.rxState, g.rxValid, g.rxFerr, fun k hk => ?_⟩
  rw [g.rxSlot]
  simpa [hb0] using h.bits k (by omega)

/-! ### Two units on crossed wires (R73) -/

/-- Two sound units have a next tick together, each its own, and are sound after it. -/
theorem pairTick_total {p : Pair} (ha : p.a.Sound) (hb : p.b.Sound) :
    ∃ q, pairTick p = some q ∧ tickAt p.b.txOut p.a = .next q.a ∧ tickAt p.a.txOut p.b = .next q.b ∧
      q.a.Sound ∧ q.b.Sound := by
  obtain ⟨a, hta⟩ := tickAt_total ha p.b.txOut
  obtain ⟨b, htb⟩ := tickAt_total hb p.a.txOut
  exact ⟨⟨a, b⟩, by simp [pairTick, hta, htb], hta, htb, tickAt_sound ha hta, tickAt_sound hb htb⟩

theorem wireBit_data (w : FrameWord) {k : Nat} (hk : k < 10) : wireBit w (BitVec.ofNat 4 (k + 1)) = w.getLsbD k := by
  interval_cases k <;> rfl

/-- Within a frame: the one sends `w`, the other has collected what it has heard of `w`, and the one is ahead by the tick
the wire takes. -/
structure Crossing (w : FrameWord) (p : Pair) : Prop where
  soundA : p.a.Sound
  soundB : p.b.Sound
  sending : p.a.txState = .shift
  slot : p.a.txSlot = w
  receiving : Receiving w.getLsbD p.b
  div : p.a.txDiv.toNat = p.b.rxDiv.toNat
  clocks : txElapsed p.a + rxRemaining p.b = 11 * p.b.rxDiv.toNat + p.b.rxDiv.toNat / 2 + 1

/-- The level the receiver hears where `m` bit periods and a half are still to come up to the stop bit. -/
theorem Crossing.level {w : FrameWord} {p : Pair} (h : Crossing w p) {m : Nat} (hm : m ≤ 11)
    (hr : rxRemaining p.b = m * p.b.rxDiv.toNat + 1) : p.a.txOut = wireBit w (BitVec.ofNat 4 (11 - m)) := by
  obtain ⟨-, hd, -⟩ := h.receiving.sound h.soundB
  have hsum : (11 - m) * p.b.rxDiv.toNat + m * p.b.rxDiv.toNat = 11 * p.b.rxDiv.toNat := by
    rw [← Nat.add_mul, Nat.sub_add_cancel hm]
  have he : txElapsed p.a = p.b.rxDiv.toNat * (11 - m) + p.b.rxDiv.toNat / 2 := by
    have := h.clocks
    rw [Nat.mul_comm]
    omega
  rw [txOut_of_shift h.soundA h.sending, h.slot, h.div, he, Nat.mul_add_div (by omega),
    Nat.div_eq_of_lt (a := _ / 2) (by omega), Nat.add_zero]

/-- A tick before the stop bit's takes both one tick on. -/
theorem Crossing.pairTick {w : FrameWord} {p : Pair} (h : Crossing w p) (hr : rxRemaining p.b ≠ 1) :
    ∃ q, pairTick p = some q ∧ Crossing w q ∧ rxRemaining p.b = rxRemaining q.b + 1 ∧ SameDelivery p.b q.b := by
  obtain ⟨-, hd, -, hc, -⟩ := h.receiving.sound h.soundB
  have hr1 : 1 ≤ rxRemaining p.b := le_add_left hc
  obtain ⟨q, hq, hqa, hqb, hsa, hsb⟩ := pairTick_total h.soundA h.soundB
  obtain ⟨-, hda, -, hsl, -⟩ := tickAt_frame hqa
  obtain ⟨-, -, hdb, -⟩ := tickAt_frame hqb
  have hclk := h.clocks
  obtain ⟨hst, hel⟩ := tickAt_txElapsed h.soundA h.sending (by rw [h.div]; omega) hqa
  obtain ⟨hrec, hrem, hsame⟩ := h.receiving.tickAt h.soundB hr
    (fun k hk he => by rw [h.level (by omega) he, ← wireBit_data w hk, show 11 - (10 - k) = k + 1 by omega]) hqb
  exact ⟨q, hq, ⟨hsa, hsb, hst, hsl.trans h.slot, hrec, by rw [hda, hdb, h.div], by rw [hdb]; omega⟩, hrem, hsame⟩

/-- The tick of the stop bit delivers the word. -/
theorem Crossing.pairTick_last {w : FrameWord} {p : Pair} (h : Crossing w p) (hr : rxRemaining p.b = 1) :
    ∃ q, Machine.pairTick p = some q ∧ q.b.rxState = .idle ∧ q.b.rxValid = true ∧ q.b.rxSlot = w ∧
      q.b.rxFerr = p.b.rxFerr := by
  obtain ⟨q, hq, -, hqb, -⟩ := pairTick_total h.soundA h.soundB
  have hx : p.a.txOut = true := h.level (m := 0) (by omega) (by omega)
  rw [hx] at hqb
  obtain ⟨hst, hv, hf, hbits⟩ := h.receiving.tickAt_stopHigh h.soundB hr hqb
  exact ⟨q, hq, hst, hv, BitVec.eq_of_getLsbD_eq fun k hk => hbits k hk, hf⟩

/-- By induction on the ticks to come: the rest of the frame crosses the wire. -/
theorem Crossing.pairTicks {w : FrameWord} : ∀ {n : Nat} {p : Pair}, Crossing w p → rxRemaining p.b = n + 1 →
    ∃ q, pairTicks (n + 1) p = some q ∧ q.b.rxState = .idle ∧ q.b.rxValid = true ∧ q.b.rxSlot = w ∧
      q.b.rxFerr = p.b.rxFerr
  | 0, p, h, hr => by
    obtain ⟨q, hq, hdone⟩ := h.pairTick_last hr
    exact ⟨q, by simp [Machine.pairTicks, hq], hdone⟩
  | n + 1, p, h, hr => by
    obtain ⟨p', hp', h', hr', hsame⟩ := h.pairTick (by omega)
    obtain ⟨q, hq, hst, hv, hsl, hf⟩ := h'.pairTicks (n := n) (by omega)
    exact ⟨q, by rw [Machine.pairTicks, hp']; exact hq, hst, hv, hsl, hf.trans hsame.rxFerr⟩

/-- The first tick puts the start bit on the line, while the other end still hears the line high. -/
theorem pairTick_starts {p : Pair} (ha : p.a.Sound) (hb : p.b.Sound) (hea : p.a.en = true) (heb : p.b.en = true)
    (hidle : p.a.txState = .idle) (hfull : p.a.txFull = true) (hwait : p.b.rxState = .idle) :
    ∃ q, pairTick p = some q ∧ q.a.Sound ∧ q.b.Sound ∧ q.a.txState = .shift ∧ txElapsed q.a = 0 ∧
      q.b.rxState = .idle ∧ q.b.rxPrev = true ∧ SameDelivery p.b q.b := by
  obtain ⟨q, hq, hqa, hqb, hsa, hsb⟩ := pairTick_total ha hb
  have hout : p.a.txOut = true := by simpa only [State.TxSound, hidle] using ha.1
  rw [hout] at hqb
  have g := tickAt_rxAgree heb hqb (rxTick_of_idle heb hwait)
  simp only [beginTick_rxIn, Bool.not_true, Bool.and_false, Bool.false_eq_true, ↓reduceIte] at g
  obtain ⟨hst, hel⟩ := tickAt_txBegin hea hidle hfull hqa
  exact ⟨q, hq, hsa, hsb, hst, hel, g.rxState.trans hwait, g.rxPrev, ⟨g.rxSlot, g.rxValid, g.rxFerr⟩⟩

/-- At the second tick the other end hears the start edge, and the frame is under way. -/
theorem pairTick_crossing {p : Pair} (ha : p.a.Sound) (hb : p.b.Sound) (heb : p.b.en = true)
    (hdiv : p.a.txDiv.toNat = p.b.rxDiv.toNat) (hshift : p.a.txState = .shift) (hel : txElapsed p.a = 0)
    (hwait : p.b.rxState = .idle) (hprev : p.b.rxPrev = true) :
    ∃ q, pairTick p = some q ∧ Crossing p.a.txSlot q ∧
      rxRemaining q.b = 11 * p.b.rxDiv.toNat + p.b.rxDiv.toNat / 2 ∧ SameDelivery p.b q.b := by
  obtain ⟨q, hq, hqa, hqb, hsa, hsb⟩ := pairTick_total ha hb
  obtain ⟨-, hda, -, hsl, -⟩ := tickAt_frame hqa
  obtain ⟨-, -, hdb, -⟩ := tickAt_frame hqb
  have hd := (enSound_of_en hb.2.2 heb).2
  have hout : p.a.txOut = false := by simp [txOut_of_shift ha hshift, hel, wireBit]
  rw [hout] at hqb
  obtain ⟨hrec, hrem, hsame⟩ := tickAt_rxBegin p.a.txSlot.getLsbD heb hwait hprev hqb
  obtain ⟨hst, hel'⟩ := tickAt_txElapsed ha hshift (by omega) hqa
  exact ⟨q, hq, ⟨hsa, hsb, hst, hsl, hrec, by rw [hda, hdb, hdiv], by rw [hdb]; omega⟩, hrem, hsame⟩

/-- Settles O59: two ticks bring the start edge to the other end, and then `Crossing` is kept until the stop bit, since
the transmitter's elapsed ticks and the receiver's remaining ticks have a constant sum. -/
theorem wordCrossesTheWire : Obligations.WordCrossesTheWire := by
  intro p c ha hb hea heb hda hdb hidle hfull hwait hprev
  have hc := (enSound_of_en hb.2.2 heb).2
  obtain ⟨p1, h1, ha1, hb1, hst1, hel1, hwait1, hprev1, hsame1⟩ := pairTick_starts ha hb hea heb hidle hfull hwait
  obtain ⟨-, hfa, -, hsl, -⟩ := tickAt_frame (pairTick_next h1).1
  obtain ⟨heb1, -, hfb, -⟩ := tickAt_frame (pairTick_next h1).2
  obtain ⟨p2, h2, hcross, hrem, hsame2⟩ :=
    pairTick_crossing ha1 hb1 (heb1.trans heb) (by rw [hfa, hfb, hda, hdb]) hst1 hel1 hwait1 hprev1
  rw [hfb, hdb] at hrem
  obtain ⟨q, hq, hst, hv, hslot, hf⟩ := hcross.pairTicks (n := 11 * c + c / 2 - 1) (by omega)
  refine ⟨q, ?_, hst, hv, hslot.trans hsl, hf.trans (hsame2.rxFerr.trans hsame1.rxFerr)⟩
  rw [show 2 + 11 * c + c / 2 = 11 * c + c / 2 - 1 + 1 + 1 + 1 by omega, pairTicks, h1, Option.bind_some, pairTicks, h2,
    Option.bind_some, hq]

end Sys2Proof.Machine

/-! # State: what every step keeps (`10_state.md`)

`Kept` carries the invariants that hold through every update, resets included. What holds only outside some operations is
read off `Stepped`, which says once what a step is made of, and off `HostFrame`, which says what a host access leaves. -/

namespace Sys2Proof.Machine

variable {s t u v : State} {x : Bool}

/-! ### The invariants (R33, R149, R25) -/

/-- Settles O49: reset puts both engines to rest with the line high. -/
theorem resetIsSound : Obligations.ResetIsSound := ⟨rfl, trivial, rfl, rfl⟩

theorem txSound_iff_of_idle (hs : s.txState = .idle) : s.TxSound ↔ s.txOut = true := by
  simp only [State.TxSound, hs]

theorem txState_of_txFull_false (h : s.TxSound) (hf : s.txFull = false) : s.txState = .idle := by
  cases hs : s.txState with
  | idle => rfl
  | shift =>
    obtain ⟨hf', -⟩ := txSound_of_shift h hs
    simp [hf] at hf'

theorem rxSound_of_idle (hs : s.rxState = .idle) : s.RxSound := by simp only [State.RxSound, hs]

theorem rxState_of_disabled (h : s.RxSound) (he : s.en = false) : s.rxState = .idle := by
  cases hs : s.rxState <;> simp_all [State.RxSound]

/-- With `EN = 0` the invariants say that both engines rest (R149, R25). -/
theorem sound_iff_of_disabled (he : s.en = false) :
    s.Sound ↔ s.txState = .idle ∧ s.txOut = true ∧ s.rxState = .idle ∧ s.txFull = false ∧ s.rxPrev = false := by
  constructor
  · rintro ⟨htx, hrx, hen⟩
    simp only [State.EnSound, he] at hen
    have hs := txState_of_txFull_false htx hen.1
    exact ⟨hs, (txSound_iff_of_idle hs).mp htx, rxState_of_disabled hrx he, hen⟩
  · rintro ⟨hs, ho, hr, hen⟩
    exact ⟨(txSound_iff_of_idle hs).mpr ho, rxSound_of_idle hr, by simpa only [State.EnSound, he] using hen⟩

theorem setEn_sound (h : s.Sound) (he : s.en = false) (hd : divisorsLegal s = true) : (setEn s).Sound := by
  obtain ⟨hs, ho, hr, -⟩ := (sound_iff_of_disabled he).mp h
  have hdiv : Config.divMin ≤ s.txDiv.toNat ∧ Config.divMin ≤ s.rxDiv.toNat := by
    simpa only [divisorsLegal, Bool.and_eq_true, decide_eq_true_eq] using hd
  exact ⟨(txSound_iff_of_idle (s := setEn s) hs).mpr ho, rxSound_of_idle hr, hdiv⟩

theorem clearEn_sound (h : s.Sound) (hi : engineIdle s = true) : (clearEn s).Sound := by
  obtain ⟨hf, hr⟩ : s.txFull = false ∧ s.rxState = .idle := by simpa [engineIdle, rxBusy] using hi
  have hs := txState_of_txFull_false h.1 hf
  exact (sound_iff_of_disabled rfl).mpr ⟨hs, (txSound_iff_of_idle hs).mp h.1, hr, hf, rfl⟩

theorem acceptWord_sound (w : Reg) (h : s.Sound) (he : s.en = true) (hf : s.txFull = false) :
    (acceptWord s w).Sound := by
  obtain ⟨htx, hrx, hen⟩ := h
  have hs := txState_of_txFull_false htx hf
  exact ⟨(txSound_iff_of_idle (s := acceptWord s w) hs).mpr ((txSound_iff_of_idle hs).mp htx), hrx,
    by simpa [State.EnSound, he] using hen⟩

/-- `Sound` speaks of neither the receiver's buffer and flag, nor the driver, nor the model's own fields, so an update of
those (the cases from `read` on) leaves it the same proposition. -/
theorem kept_sound : Kept State.Sound where
  tick := tickAt_sound
  reset _ := (sound_iff_of_disabled rfl).mpr ⟨rfl, rfl, rfl, rfl, rfl⟩
  setEn := setEn_sound
  clearEn h _ hi := clearEn_sound h hi
  accept w h he hf := acceptWord_sound w h he hf
  txDiv {s} d h he := (sound_iff_of_disabled (s := { s with txDiv := d }) he).mpr ((sound_iff_of_disabled he).mp h)
  rxDiv {s} d h he := (sound_iff_of_disabled (s := { s with rxDiv := d }) he).mpr ((sound_iff_of_disabled he).mp h)
  read _ h := h
  readAny h := h
  pop h := h
  clearFerr h := h
  hold _ h _ _ := h
  accepted h := h
  reported h := h
  driver _ h := h
  result _ h := h
  plan _ _ h := h

/-- Settles O50: `Kept` carries `Sound` through every kind of step. -/
theorem stepKeepsSound : Obligations.StepKeepsSound := fun _ _ => kept_sound.step

/-! ### What is fixed and what only grows (R47, R302, R304) -/

/-- `t` is `s` later: the same platform, and what has been observed since on top of what had been, with one level a
tick. -/
def Later (s t : State) : Prop :=
  t.clockHz = s.clockHz ∧ t.ident = s.ident ∧ t.wiring = s.wiring ∧
    s.trace <:+ t.trace ∧ (levelsSeen t).length + s.ticks = (levelsSeen s).length + t.ticks

theorem Later.refl (s : State) : Later s s := ⟨rfl, rfl, rfl, List.suffix_rfl, rfl⟩

theorem levelsSeen_of_level (h : t.trace = .level x :: s.trace) : levelsSeen t = x :: levelsSeen s := by
  simp [levelsSeen, h]

theorem levelsSeen_of_not_level {o : Observation} (ho : ∀ x, o ≠ .level x) (h : t.trace = o :: s.trace) :
    levelsSeen t = levelsSeen s := by
  cases o with
  | level x => exact absurd rfl (ho x)
  | read | accepted | held | record => simp [levelsSeen, h]

/-- An observation that is no level takes no tick. -/
theorem Later.observe (h : Later s u) (o : Observation) (ho : ∀ x, o ≠ .level x) :
    Later s { u with trace := o :: u.trace } := by
  obtain ⟨hc, hi, hw, ht, hl⟩ := h
  exact ⟨hc, hi, hw, ht.trans (List.suffix_cons _ _), by rwa [levelsSeen_of_not_level (s := u) ho rfl]⟩

theorem Later.tickAt (h : Later s u) (ht : tickAt x u = .next t) : Later s t := by
  obtain ⟨hc, hi, hw, htr, hl⟩ := h
  obtain ⟨-, -, -, -, -, hc', hi', hw', -, -, -, -, -, -, -, -, hticks, htrace⟩ := tickAt_frame ht
  refine ⟨hc'.trans hc, hi'.trans hi, hw'.trans hw, htrace ▸ htr.trans (List.suffix_cons _ _), ?_⟩
  rw [levelsSeen_of_level htrace, List.length_cons, hticks]
  omega

theorem kept_later (s : State) : Kept (Later s) where
  tick h ht := h.tickAt ht
  read v h := h.observe (.read v) nofun
  readAny {u} h := h.observe (.read (Config.anyBits u.ident 16 u.draws)) nofun
  hold _ h _ _ := h.observe .held nofun
  accept _ h _ _ := h.observe .accepted nofun
  accepted h := h.observe .accepted nofun
  reported {u} h := h.observe (.record u.result) nofun
  reset h := h
  pop h := h
  clearFerr h := h
  setEn h _ _ := h
  clearEn h _ _ := h
  txDiv _ h _ := h
  rxDiv _ h _ := h
  driver _ h := h
  result _ h := h
  plan _ _ h := h

/-- Settles O55: `Later s` holds of `s` and is kept by every update of the step. -/
theorem platformIsFixed : Obligations.PlatformIsFixed := fun s _ h => (kept_later s).step (Later.refl s) h

/-! ### What a host access leaves alone -/

/-- The sixteen operations a command word selects (R103). -/
def isHostAccess : Instr → Bool
  | .rdTxdata | .rdRxdata | .rdStatus | .rdCtrl | .rdTxdiv | .rdRxdiv | .rdRsvd6 | .rdRsvd7 => true
  | .wrTxdata _ | .wrRxdata _ | .wrStatus _ | .wrCtrl _ | .wrTxdiv _ | .wrRxdiv _ | .wrRsvd6 _ | .wrRsvd7 _ => true
  | _ => false

theorem isHostAccess_decodeHost (cmd : HostCmd) : isHostAccess (decodeHost cmd) = true := by
  unfold decodeHost
  split <;> rfl

/-- A host access changes no driver variable and none of what falls between accesses; only a `WR TXDATA` into the empty
buffer changes the word in the slot (R140), and only a `WR STATUS` with bit 2 the framing flag (R237). -/
structure HostFrame (i : Instr) (s t : State) : Prop where
  driver : t.driver = s.driver
  gaps : t.gaps = s.gaps
  txSlot : t.txSlot = s.txSlot ∨ s.txFull = false ∧ ∃ v, i = .wrTxdata v
  rxFerr : t.rxFerr = s.rxFerr ∨ ∃ v, i = .wrStatus v ∧ v.getLsbD 2 = true

theorem hostFrame_of_exec {i : Instr} (hi : isHostAccess i = true) (h : exec i s = .next t) : HostFrame i s t := by
  cases i
  case rdStatus | rdCtrl | rdTxdiv | rdRxdiv => cases h; exact ⟨rfl, rfl, .inl rfl, .inl rfl⟩
  case rdRxdata =>
    obtain ⟨-, rfl⟩ | ⟨-, rfl⟩ := execRdRxdata_next h <;> exact ⟨rfl, rfl, .inl rfl, .inl rfl⟩
  case wrTxdata w =>
    obtain ⟨-, -, ⟨-, rfl⟩ | ⟨hf, rfl⟩⟩ := execWrTxdata_next h
    · exact ⟨rfl, rfl, .inl rfl, .inl rfl⟩
    · exact ⟨rfl, rfl, .inr ⟨hf, w, rfl⟩, .inl rfl⟩
  case wrStatus w =>
    obtain ⟨-, ⟨hw, rfl⟩ | ⟨-, rfl⟩⟩ := execWrStatus_next h
    · exact ⟨rfl, rfl, .inl rfl, .inr ⟨w, rfl, hw⟩⟩
    · exact ⟨rfl, rfl, .inl rfl, .inl rfl⟩
  case wrCtrl w =>
    obtain ⟨rfl, -⟩ | ⟨rfl, -⟩ | ⟨rfl, -⟩ := execWrCtrl_next h <;> exact ⟨rfl, rfl, .inl rfl, .inl rfl⟩
  case wrTxdiv w => obtain ⟨-, rfl⟩ := execWrTxdiv_next h; exact ⟨rfl, rfl, .inl rfl, .inl rfl⟩
  case wrRxdiv w => obtain ⟨-, rfl⟩ := execWrRxdiv_next h; exact ⟨rfl, rfl, .inl rfl, .inl rfl⟩
  case rdTxdata | rdRsvd6 | rdRsvd7 | wrRxdata | wrRsvd6 | wrRsvd7 => cases h
  all_goals cases hi

theorem hostFrame_of_wrTxdata {w : Reg} (h : execWrTxdata w s = .next t) : HostFrame (.wrTxdata w) s t :=
  hostFrame_of_exec (i := .wrTxdata w) rfl h

/-! ### What a step is made of (R13) -/

/-- One step from `s` to `t`: a tick; the reset step; a word written to `TXDATA`, by the held host or by a send; another
host access; `configure`; or one poll of the receiver, in either form of `receive`. -/
inductive Stepped (s t : State) : Prop
  | tick (x : Bool) (l : List Event) (h : tickAt x { s with script := l } = .next t)
  | reset (rest : List Event) (hs : s.script = .reset :: rest) (h : t = resetStep { s with script := rest })
  | word (w : Reg) (l : List Event) (h : execWrTxdata w { s with script := l } = .next t)
  | access (cmd : HostCmd) (rest : List Event) (hn : s.held = none) (hs : s.script = .access cmd :: rest)
      (h : exec (decodeHost cmd) { s with script := rest } = .next t)
  | configure (baud : Nat) (mode : BitVec 2) (own : Byte) (rest : List Event) (hn : s.held = none)
      (hs : s.script = .call (.configure baud mode own) :: rest)
      (h : execConfigure baud mode own { s with script := rest } = .next t)
  | poll (e : Event) (rest : List Event) (u : State) (hn : s.held = none) (hs : s.script = e :: rest)
      (he : e = .call .receive ∨ e = .await) (hu : pollReceiver { s with script := rest } = .next u)
      (h : t = { u with script := t.script, gaps := t.gaps, trace := t.trace })

theorem sendFrame_next {a : Bool} {n : Nat} (h : sendFrame a n s = .next t) : ∃ w, execWrTxdata w s = .next t := by
  unfold sendFrame at h
  split at h
  · cases h
  · exact ⟨_, h⟩

theorem stepped_of_call {c : DriverCall} {rest : List Event} (hn : s.held = none) (hs : s.script = .call c :: rest)
    (h : exec (decodeCall c) { s with script := rest } = .next t) : Stepped s t := by
  cases c with
  | configure baud mode own => exact .configure baud mode own rest hn hs h
  | send a n => obtain ⟨w, hw⟩ := sendFrame_next (a := a) h; exact .word w rest hw
  | sendAddress n => obtain ⟨w, hw⟩ := sendFrame_next (a := true) h; exact .word w rest hw
  | sendData n => obtain ⟨w, hw⟩ := sendFrame_next (a := false) h; exact .word w rest hw
  | receive =>
    obtain ⟨u, hu, h⟩ := andThen_eq_next.mp h
    cases h
    exact .poll _ rest u hn hs (.inl rfl) hu rfl

theorem stepped_of_awaitFrame {rest : List Event} (hn : s.held = none) (hs : s.script = .await :: rest)
    (h : awaitFrame s rest = .next t) : Stepped s t := by
  obtain ⟨u, hu, h⟩ := andThen_eq_next.mp h
  split at h <;> cases h <;> exact .poll _ rest u hn hs (.inr rfl) hu rfl

theorem stepped_of_heldTurn {w : Reg} (h : heldTurn w s = .next t) : Stepped s t := by
  unfold heldTurn at h
  split at h
  next rest hs => cases h; exact .reset rest hs rfl
  next rest hs =>
    split at h
    · exact .tick _ rest h
    · exact .word w s.script h
  all_goals
    split at h
    · exact .tick _ s.script h
    · exact .word w s.script h

theorem stepped_of_step (h : step s = .next t) : Stepped s t := by
  unfold step turn at h
  split at h
  next hn =>
    unfold scriptTurn at h
    split at h
    next => exact .tick _ s.script h
    next rest _ => exact .tick _ rest h
    next rest hs => cases h; exact .reset rest hs rfl
    next cmd rest hs => exact .access cmd rest hn hs h
    next c rest hs => exact stepped_of_call hn hs h
    next rest hs => exact stepped_of_awaitFrame hn hs h
  next w _ => exact stepped_of_heldTurn h

/-! ### The framing flag (R29, R260) -/

/-- No row of R190 clears the flag. -/
theorem rxTick_rxFerr (h : rxTick s = .next t) (hf : s.rxFerr = true) : t.rxFerr = true := by
  rcases (rxTick_cases h).2 with ⟨-, -, -, rfl⟩ | ⟨-, -, rfl⟩ | ⟨-, -, rfl⟩ | ⟨-, -, rfl⟩ | ⟨-, -, rfl⟩ |
    ⟨-, -, -, rfl⟩ | ⟨-, -, -, rfl⟩ | ⟨-, -, rfl⟩ | ⟨-, -, rfl⟩ <;> simp [hf]

theorem tickAt_rxFerr (h : tickAt x s = .next t) (hf : s.rxFerr = true) : t.rxFerr = true := by
  obtain ⟨v, rfl, ⟨-, u, hu, hv⟩ | ⟨-, rfl⟩⟩ := tickAt_cases h
  · exact rxTick_rxFerr (t := v) hv ((txTick_writesOnlyTx hu).rxAgree.rxFerr.trans hf)
  · exact hf

/-- Settles O52: a tick only sets the flag, and `HostFrame` leaves one access that clears it. -/
theorem framingFlagIsSticky : Obligations.FramingFlagIsSticky := by
  intro s t h hs ht
  cases stepped_of_step h with
  | tick x l h => exact absurd (tickAt_rxFerr h hs) (by simp [ht])
  | reset rest hr => exact ⟨_, rest, hr, .inl rfl⟩
  | word w l h =>
    rcases (hostFrame_of_wrTxdata h).rxFerr with hf | ⟨_, hw, -⟩
    · simp [hs, ht] at hf
    · cases hw
  | access cmd rest hn hr h =>
    rcases (hostFrame_of_exec (isHostAccess_decodeHost cmd) h).rxFerr with hf | ⟨w, hw, hb⟩
    · simp [hs, ht] at hf
    · exact ⟨_, rest, hr, .inr ⟨hn, .inl ⟨cmd, w, rfl, hw, hb⟩⟩⟩
  | configure baud mode own rest hn hr => exact ⟨_, rest, hr, .inr ⟨hn, .inr (.inl ⟨baud, mode, own, rfl⟩)⟩⟩
  | poll e rest u hn hr he => exact ⟨e, rest, hr, .inr ⟨hn, .inr (.inr he)⟩⟩

/-! ### The driver's variables (R35, R227, R228) -/

/-- A frame taken in leaves a driver that has forgotten no error (R227). -/
theorem acceptFrame_driver (d : Driver) (w : Reg) (s : State) :
    ∃ d', (acceptFrame d w s).driver = some d' ∧ (d.lastError = true → d'.lastError = true) := by
  unfold acceptFrame
  split
  · exact ⟨_, rfl, fun _ => rfl⟩
  split
  · exact ⟨_, rfl, id⟩
  split <;> exact ⟨_, rfl, id⟩

theorem pollReceiver_driver {d : Driver} (hd : s.driver = some d) (h : pollReceiver s = .next t) :
    ∃ d', t.driver = some d' ∧ (d.lastError = true → d'.lastError = true) := by
  rw [pollReceiver_eq hd] at h
  split at h
  · obtain ⟨u, -, h⟩ := andThen_eq_next.mp h
    cases h
    exact ⟨_, rfl, fun _ => rfl⟩
  split at h
  · obtain ⟨u, -, h⟩ := andThen_eq_next.mp h
    cases h
    exact acceptFrame_driver d u.readValue u
  · cases h
    exact ⟨d, hd, id⟩

/-- `configure` makes its accesses and then sets the driver anew (R215). -/
theorem execConfigure_next {baud : Nat} {mode : BitVec 2} {own : Byte} (h : execConfigure baud mode own s = .next t) :
    ∃ c d u, configureAccesses c s = .next u ∧ t = setDriver u d := by
  unfold execConfigure at h
  split at h
  · cases h
  split at h
  · cases h
  dsimp only at h
  split at h
  · cases h
  obtain ⟨u, hu, h⟩ := andThen_eq_next.mp h
  cases h
  exact ⟨_, _, u, hu, rfl⟩

/-- A step changes the driver only in `configure` and in a poll. -/
theorem step_driver (h : step s = .next t) :
    t.driver = s.driver ∨ s.held = none ∧
      ((∃ baud mode own rest, s.script = .call (.configure baud mode own) :: rest ∧ t.driver.isSome) ∨
       ∃ e rest u, s.script = e :: rest ∧ (e = .call .receive ∨ e = .await) ∧
         pollReceiver { s with script := rest } = .next u ∧ t.driver = u.driver) := by
  cases stepped_of_step h with
  | tick x l h =>
    obtain ⟨-, -, -, -, hd, -⟩ := tickAt_frame h
    exact .inl hd
  | reset rest hs h => exact .inl (h ▸ rfl)
  | word w l h => exact .inl (hostFrame_of_wrTxdata h).driver
  | access cmd rest hn hs h => exact .inl (hostFrame_of_exec (isHostAccess_decodeHost cmd) h).driver
  | configure baud mode own rest hn hs h =>
    obtain ⟨_, _, u, -, rfl⟩ := execConfigure_next h
    exact .inr ⟨hn, .inl ⟨baud, mode, own, rest, hs, rfl⟩⟩
  | poll e rest u hn hs he hu h => exact .inr ⟨hn, .inr ⟨e, rest, u, hs, he, hu, by rw [h]⟩⟩

/-- Settles O53: the driver is set anew by `configure`, and a poll leaves no error forgotten. -/
theorem lastErrorIsSticky : Obligations.LastErrorIsSticky := by
  intro s t h
  rcases step_driver h with hd | ⟨hn, ⟨baud, mode, own, rest, hs, hsome⟩ | ⟨e, rest, u, hs, he, hu, hd⟩⟩
  · exact ⟨fun hne => absurd hd hne, fun d hsd hl => ⟨d, hd.trans hsd, .inl hl⟩⟩
  · obtain ⟨d', hd'⟩ := Option.isSome_iff_exists.mp hsome
    exact ⟨fun _ => ⟨hn, _, rest, hs, .inl ⟨baud, mode, own, rfl⟩⟩,
      fun _ _ _ => ⟨d', hd', .inr ⟨baud, mode, own, rest, hs⟩⟩⟩
  · refine ⟨fun _ => ⟨hn, e, rest, hs, .inr he⟩, fun d hsd hl => ?_⟩
    obtain ⟨d', hd', hl'⟩ := pollReceiver_driver (s := { s with script := rest }) hsd hu
    exact ⟨d', hd.trans hd', .inl (hl' hl)⟩

/-! ### The word in the slot (R21) -/

/-- The slot holds `w`, and no reset is to fall between the accesses of a driver operation. -/
def SlotHolds (w : FrameWord) (s : State) : Prop := (∀ g ∈ s.gaps, Lull.reset ∉ g) ∧ s.txSlot = w

/-- `f` leaves the word in the slot, as long as no reset falls between accesses. -/
def KeepsSlot (f : State → Result) : Prop := ∀ ⦃w s t⦄, SlotHolds w s → f s = .next t → SlotHolds w t

namespace KeepsSlot

theorem next : KeepsSlot .next := by
  rintro w s _ h ⟨⟩
  exact h

theorem andThen {f g : State → Result} (hf : KeepsSlot f) (hg : KeepsSlot g) :
    KeepsSlot fun s => andThen (f s) g := by
  intro w s t h ht
  obtain ⟨u, hu, ht⟩ := andThen_eq_next.mp ht
  exact hg (hf h hu) ht

theorem ite {c : State → Bool} {f g : State → Result} (hf : KeepsSlot f) (hg : KeepsSlot g) :
    KeepsSlot fun s => if c s then f s else g s := by
  intro w s t h ht
  dsimp only at ht
  split at ht
  exacts [hf h ht, hg h ht]

theorem tickAt (x : Bool) : KeepsSlot (tickAt x) := by
  intro w s t h ht
  obtain ⟨-, -, -, hslot, -, -, -, -, -, hgaps, -⟩ := tickAt_frame ht
  exact ⟨hgaps ▸ h.1, hslot.trans h.2⟩

theorem runLull : ∀ {l : List Lull}, Lull.reset ∉ l → KeepsSlot (runLull l)
  | [], _ => next
  | .tick :: l, hl => fun w s t h ht => by
    obtain ⟨u, hu, ht⟩ := andThen_eq_next.mp ht
    exact runLull (fun hm => hl (.tail _ hm)) (tickAt _ h hu) ht
  | .reset :: l, hl => absurd (.head l) hl

theorem elapse : KeepsSlot elapse := by
  intro w s t ⟨hg, hw⟩ ht
  unfold Machine.elapse at ht
  split at ht
  next => cases ht; exact ⟨hg, hw⟩
  next g rest hgs =>
    rw [hgs] at hg
    have hrest : SlotHolds w { s with gaps := rest } := ⟨fun g' hm => hg g' (.tail _ hm), hw⟩
    exact runLull (hg g List.mem_cons_self) hrest ht

theorem nextAccess {f : State → Result} (hf : KeepsSlot f) : KeepsSlot (nextAccess f) := elapse.andThen hf

/-- Every host access but `WR TXDATA`. -/
theorem access {i : Instr} (hi : isHostAccess i = true) (hw : ∀ v, i ≠ .wrTxdata v) : KeepsSlot (exec i) := by
  intro w s t h ht
  have hf := hostFrame_of_exec hi ht
  rcases hf.txSlot with hslot | ⟨-, v, hv⟩
  · exact ⟨hf.gaps ▸ h.1, hslot.trans h.2⟩
  · exact absurd hv (hw v)

theorem rdCtrl : KeepsSlot execRdCtrl := access (i := .rdCtrl) rfl nofun
theorem rdStatus : KeepsSlot execRdStatus := access (i := .rdStatus) rfl nofun
theorem rdRxdata : KeepsSlot execRdRxdata := access (i := .rdRxdata) rfl nofun
theorem wrCtrl (v : Reg) : KeepsSlot (execWrCtrl v) := access (i := .wrCtrl v) rfl nofun
theorem wrStatus (v : Reg) : KeepsSlot (execWrStatus v) := access (i := .wrStatus v) rfl nofun
theorem wrTxdiv (v : Reg) : KeepsSlot (execWrTxdiv v) := access (i := .wrTxdiv v) rfl nofun
theorem wrRxdiv (v : Reg) : KeepsSlot (execWrRxdiv v) := access (i := .wrRxdiv v) rfl nofun

theorem configureAccesses (c : Reg) : KeepsSlot (configureAccesses c) :=
  rdCtrl.andThen <| (ite (wrCtrl _).nextAccess next).andThen <| (wrTxdiv c).nextAccess.andThen <|
    (wrRxdiv c).nextAccess.andThen <| rdStatus.nextAccess.andThen <| (ite rdRxdata.nextAccess next).andThen <|
    (wrStatus _).nextAccess.andThen (wrCtrl _).nextAccess

theorem acceptFrame (d : Driver) : KeepsSlot fun s => .next (acceptFrame d s.readValue s) := by
  rintro w s _ h ⟨⟩
  unfold Machine.acceptFrame
  split
  · exact h
  split
  · exact h
  split <;> exact h

theorem raiseDriverError (d : Driver) : KeepsSlot fun s => .next (raiseDriverError s d) := by
  rintro w s _ h ⟨⟩
  exact h

theorem returnNothing : KeepsSlot fun s => .next (returnNothing s) := by
  rintro w s _ h ⟨⟩
  exact h

theorem pollReceiver : KeepsSlot pollReceiver := by
  intro w s t h ht
  unfold Machine.pollReceiver at ht
  split at ht
  next => cases ht
  next d _ =>
    exact rdStatus.andThen (ite ((wrStatus _).nextAccess.andThen (raiseDriverError d))
      (ite (rdRxdata.nextAccess.andThen (acceptFrame d)) returnNothing)) h ht

end KeepsSlot

/-- Settles O54: with `tx_full = 1` a `WR TXDATA` is held, and nothing else writes the slot. -/
theorem slotIsConstantWhileFull : Obligations.SlotIsConstantWhileFull := by
  intro s t h hfull hreset hgaps
  have hslot (l : List Event) : SlotHolds s.txSlot { s with script := l } := ⟨hgaps, rfl⟩
  cases stepped_of_step h with
  | tick x l h => exact (KeepsSlot.tickAt x (hslot l) h).2
  | reset rest hs => simp [hs] at hreset
  | word w l h =>
    rcases (hostFrame_of_wrTxdata h).txSlot with hw | ⟨hf, -⟩
    · exact hw
    · simp [hfull] at hf
  | access cmd rest hn hs h =>
    rcases (hostFrame_of_exec (isHostAccess_decodeHost cmd) h).txSlot with hw | ⟨hf, -⟩
    · exact hw
    · simp [hfull] at hf
  | configure baud mode own rest hn hs h =>
    obtain ⟨c, _, u, hu, rfl⟩ := execConfigure_next h
    exact (KeepsSlot.configureAccesses c (hslot rest) hu).2
  | poll e rest u hn hs he hu h =>
    rw [h]
    exact (KeepsSlot.pollReceiver (hslot rest) hu).2

end Sys2Proof.Machine

/-! # Memory: repeated accesses, the wire, the wait after a framing error (`20_memory.md`)

What is said once for all: what an access answers when its guard holds, what the receiver hears at a tick, and what a
tick does in `FRAMING_ERROR`. -/

namespace Sys2Proof.Machine

variable {s t u : State} {x : Bool} {v : Reg}

/-! ### An idempotent write made again (R65): the converses of `execWrStatus_next` and its neighbours -/

theorem execWrStatus_of_ok (hv : statusWriteOk v = true) (s : State) :
    execWrStatus v s = .next (acceptWrite (if v.getLsbD 2 then clearFerr s else s)) := by
  simp [execWrStatus, hv]

theorem execWrTxdiv_of_disabled (he : s.en = false) (v : Reg) :
    execWrTxdiv v s = .next (acceptWrite { s with txDiv := v }) := by
  simp [execWrTxdiv, he]

theorem execWrRxdiv_of_disabled (he : s.en = false) (v : Reg) :
    execWrRxdiv v s = .next (acceptWrite { s with rxDiv := v }) := by
  simp [execWrRxdiv, he]

theorem execWrCtrl_of_same (hv : ctrlWriteOk v = true) (he : s.en = v.getLsbD 0) :
    execWrCtrl v s = .next (acceptWrite s) := by
  simp [execWrCtrl, hv, he]

theorem ctrlWriteOk_of_execWrCtrl (h : execWrCtrl v s = .next t) : ctrlWriteOk v = true := by
  unfold execWrCtrl at h
  split at h
  next => cases h
  next hv => simpa using hv

/-- An accepted `WR CTRL` leaves `EN` at the bit written (R239). -/
theorem en_of_execWrCtrl (h : execWrCtrl v s = .next t) : t.en = v.getLsbD 0 := by
  obtain ⟨rfl, he⟩ | ⟨rfl, -, hv, -⟩ | ⟨rfl, -, hv, -⟩ := execWrCtrl_next h
  · exact he
  · exact hv.symm
  · exact hv.symm

/-- An access that answered `t` answers `t` again, seen once more. -/
def Repeats (i : Instr) (s t : State) : Prop :=
  ∃ o, t.trace = o :: s.trace ∧ exec i t = .next { t with trace := o :: t.trace }

theorem repeats_wrStatus (h : execWrStatus v s = .next t) : Repeats (.wrStatus v) s t := by
  obtain ⟨hok, ⟨hb, rfl⟩ | ⟨hb, rfl⟩⟩ := execWrStatus_next h <;>
    exact ⟨.accepted, rfl, by rw [exec, execWrStatus_of_ok hok, hb]; rfl⟩

theorem repeats_wrCtrl (h : execWrCtrl v s = .next t) : Repeats (.wrCtrl v) s t := by
  refine ⟨.accepted, ?_, execWrCtrl_of_same (ctrlWriteOk_of_execWrCtrl h) (en_of_execWrCtrl h)⟩
  obtain ⟨rfl, -⟩ | ⟨rfl, -⟩ | ⟨rfl, -⟩ := execWrCtrl_next h <;> rfl

theorem repeats_wrTxdiv (h : execWrTxdiv v s = .next t) : Repeats (.wrTxdiv v) s t := by
  obtain ⟨he, rfl⟩ := execWrTxdiv_next h
  exact ⟨.accepted, rfl, execWrTxdiv_of_disabled (s := acceptWrite _) he v⟩

theorem repeats_wrRxdiv (h : execWrRxdiv v s = .next t) : Repeats (.wrRxdiv v) s t := by
  obtain ⟨he, rfl⟩ := execWrRxdiv_next h
  exact ⟨.accepted, rfl, execWrRxdiv_of_disabled (s := acceptWrite _) he v⟩

/-- Settles O18: a read changes nothing that it reads, and a write finds what it writes already written. -/
theorem idempotentAccesses : Obligations.IdempotentAccesses := by
  rintro i s t h (rfl | rfl | rfl | rfl | ⟨v, rfl | rfl | rfl | rfl⟩)
  case inl | inr.inl | inr.inr.inl | inr.inr.inr.inl => cases h; exact ⟨_, rfl, rfl⟩
  · exact repeats_wrStatus h
  · exact repeats_wrCtrl h
  · exact repeats_wrTxdiv h
  · exact repeats_wrRxdiv h

/-! ### What the receiver hears at a tick (R73, R171) -/

/-- Every row of R190 ends with `rx_prev <- x` (R171). -/
theorem rxTick_rxPrev (h : rxTick s = .next t) : t.rxPrev = s.rxIn := by
  rcases (rxTick_cases h).2 with ⟨-, -, -, rfl⟩ | ⟨-, -, rfl⟩ | ⟨-, -, rfl⟩ | ⟨-, -, rfl⟩ | ⟨-, -, rfl⟩ |
    ⟨-, -, -, rfl⟩ | ⟨-, -, -, rfl⟩ | ⟨-, -, rfl⟩ | ⟨-, -, rfl⟩ <;> rfl

/-- After a tick at level `x` the input is `x`, and an enabled receiver has latched it. -/
theorem tickAt_hears (h : tickAt x s = .next t) : t.rxIn = x ∧ (s.en = true → t.rxPrev = x) := by
  obtain ⟨w, rfl, ⟨-, u, hu, hw⟩ | ⟨he, rfl⟩⟩ := tickAt_cases h
  · have hx : u.rxIn = x := (txTick_writesOnlyTx hu).rxAgree.rxIn
    exact ⟨(congrArg State.rxIn (rxTick_writesOnlyRx hw)).trans hx, fun _ => (rxTick_rxPrev hw).trans hx⟩
  · exact ⟨rfl, by simp [he]⟩

theorem tickAt_ticks (h : tickAt x s = .next t) : t.ticks = s.ticks + 1 := by
  obtain ⟨-, -, -, -, -, -, -, -, -, -, -, -, -, -, -, -, hticks, -⟩ := tickAt_frame h
  exact hticks

theorem nextLevel_of_loopback (hw : s.wiring = .loopback) (hl : s.line = []) : nextLevel s = s.txOut := by
  simp [nextLevel, hw, hl]

/-! ### A multidrop line (R74) -/

theorem mem_drivenLevels {b : List Node} : x ∈ drivenLevels b ↔ ∃ d ∈ b, d.drives = true ∧ x = d.unit.txOut := by
  simp [drivenLevels, and_assoc, eq_comm (a := x)]

theorem drivenLevels_append (a b : List Node) : drivenLevels (a ++ b) = drivenLevels a ++ drivenLevels b := by
  simp [drivenLevels]

theorem drivenLevels_eq_nil {b : List Node} : drivenLevels b = [] ↔ ∀ d ∈ b, d.drives = false := by
  simp [drivenLevels]

/-- The line has the level of a connected `tx_out`, or, where none is connected, the level from outside. -/
theorem tickNodes_of_busTick {level : Bool} {b b' : List Node} (h : busTick x b = .next b')
    (hl : (∃ d ∈ b, d.drives = true ∧ level = d.unit.txOut) ∨ ((∀ d ∈ b, d.drives = false) ∧ level = x)) :
    tickNodes level b = .next b' := by
  rw [← mem_drivenLevels, ← drivenLevels_eq_nil] at hl
  rcases busTick_next h with ⟨hd, ht⟩ | ⟨l, hd, ht⟩ <;> simp only [hd] at hl
  · obtain rfl : level = x := by simpa using hl
    exact ht
  · obtain rfl : level = l := by simpa using hl
    exact ht

theorem tickNodes_getElem? {level : Bool} {b b' : List Node} {j : Nat} {n : Node} (h : tickNodes level b = .next b')
    (hn : b[j]? = some n) (hl : n.listens = true) :
    ∃ n', b'[j]? = some n' ∧ tickAt level n.unit = .next n'.unit := by
  have hall := tickNodes_next h
  obtain ⟨hj, rfl⟩ := List.getElem?_eq_some_iff.mp hn
  have hj' : j < b'.length := hall.length_eq ▸ hj
  obtain ⟨u, hu, he⟩ := hall.get hj hj'
  refine ⟨b'[j], List.getElem?_eq_getElem hj', ?_⟩
  simp only [List.get_eq_getElem, hl, ↓reduceIte] at hu he
  rw [he, hu]

theorem drivenLevels_ne_nil {b : List Node} {d : Node} (hm : d ∈ b) (hd : d.drives = true) : drivenLevels b ≠ [] :=
  List.ne_nil_of_mem (mem_drivenLevels.mpr ⟨d, hm, hd, rfl⟩)

/-- The line is cut between the two connected nodes: each part puts a level on it. -/
theorem busTick_of_contention {b : List Node} {k j : Nat} {d e : Node} (hkj : k < j) (hk : b[k]? = some d)
    (hj : b[j]? = some e) (hd : d.drives = true) (he : e.drives = true) : busTick x b = .refused .lineContention := by
  have h1 : drivenLevels (b.take j) ≠ [] :=
    drivenLevels_ne_nil (List.mem_of_getElem? (i := k) (by rwa [List.getElem?_take_of_lt hkj])) hd
  have h2 : drivenLevels (b.drop j) ≠ [] :=
    drivenLevels_ne_nil (List.mem_of_getElem? (i := 0) (by rwa [List.getElem?_drop])) he
  obtain ⟨p, ps, hp⟩ := List.exists_cons_of_ne_nil h1
  obtain ⟨q, qs, hq⟩ := List.exists_cons_of_ne_nil h2
  have hb : drivenLevels b = p :: (ps ++ q :: qs) := by
    rw [← List.take_append_drop j b, drivenLevels_append, hp, hq, List.cons_append]
  unfold busTick
  rw [hb]
  cases ps <;> rfl

/-- Settles O38: each of the three ticks is a `tickAt` at a level read before it, and `tickAt_hears` says the rest. -/
theorem wireDelaysOneTick : Obligations.WireDelaysOneTick := by
  refine ⟨fun p q h => ?_, fun s t hw hl h => ?_, fun x level b b' j n h hn hlis hlev => ?_,
    fun x b k j d e hne hk hj hd he => ?_⟩
  · obtain ⟨ha, hb⟩ := pairTick_next h
    exact ⟨(tickAt_hears hb).1, (tickAt_hears ha).1, (tickAt_hears hb).2, (tickAt_hears ha).2⟩
  · rw [tick, nextLevel_of_loopback hw hl] at h
    exact tickAt_hears h
  · obtain ⟨n', hn', ht⟩ := tickNodes_getElem? (tickNodes_of_busTick h hlev) hn hlis
    exact ⟨n', hn', tickAt_hears ht⟩
  · rcases Nat.lt_or_gt_of_ne hne with hlt | hlt
    · exact busTick_of_contention hlt hk hj hd he
    · exact busTick_of_contention hlt hj hk he hd

/-! ### The wait after a framing error (R79, R180, R184) -/

theorem SameDelivery.refl (s : State) : SameDelivery s s := ⟨rfl, rfl, rfl⟩

theorem SameDelivery.trans (h : SameDelivery s t) (h' : SameDelivery t u) : SameDelivery s u :=
  ⟨h'.rxSlot.trans h.rxSlot, h'.rxValid.trans h.rxValid, h'.rxFerr.trans h.rxFerr⟩

theorem en_of_framingError (h : s.Sound) (hs : s.rxState = .framingError) : s.en = true := by
  obtain ⟨-, hrx, -⟩ := h
  simpa only [State.RxSound, hs] using hrx

/-- In `FRAMING_ERROR` a sound state's tick ends the wait exactly where the line is high (R180). -/
theorem tickAt_framingError (h : s.Sound) (hs : s.rxState = .framingError) (x : Bool) :
    ∃ t, tickAt x s = .next t ∧ t.Sound ∧ t.rxState = (if x then .idle else .framingError) ∧ t.ticks = s.ticks + 1 ∧
      t.rxPrev = x ∧ SameDelivery s t := by
  obtain ⟨t, ht⟩ := tickAt_total h x
  have he := en_of_framingError h hs
  have g := tickAt_rxAgree he ht (rxTick_of_framingError (s := beginTick s x) he hs)
  refine ⟨t, ht, tickAt_sound h ht, ?_, tickAt_ticks ht, (tickAt_hears ht).2 he, ?_⟩
  · cases x
    · exact g.rxState.trans hs
    · exact g.rxState
  · cases x <;> exact ⟨g.rxSlot, g.rxValid, g.rxFerr⟩

/-- By induction on the ticks: while the stream is low the receiver waits. -/
theorem ticksOn_low {x : Nat → Bool} : ∀ {n : Nat} {s : State}, s.Sound → s.rxState = .framingError →
    (∀ k < n, x (s.ticks + k) = false) →
    ∃ t, ticksOn x n s = .next t ∧ t.Sound ∧ t.rxState = .framingError ∧ t.ticks = s.ticks + n ∧ SameDelivery s t
  | 0, s, h, hs, _ => ⟨s, rfl, h, hs, rfl, .refl s⟩
  | n + 1, s, h, hs, hlow => by
    obtain ⟨u, hu, hsu, hst, htk, -, hsame⟩ := tickAt_framingError h hs (x s.ticks)
    rw [show x s.ticks = false from hlow 0 n.succ_pos] at hst
    obtain ⟨t, ht, hsound, hst', htk', hsame'⟩ := ticksOn_low (n := n) hsu hst fun k hk => by
      rw [htk, Nat.add_right_comm]
      exact hlow (k + 1) (Nat.succ_lt_succ hk)
    exact ⟨t, by rw [ticksOn, hu, andThen_next, ht], hsound, hst', by omega, hsame.trans hsame'⟩

/-- One tick more, made last. -/
theorem ticksOn_succ (x : Nat → Bool) : ∀ (n : Nat) (s : State),
    ticksOn x (n + 1) s = andThen (ticksOn x n s) fun t => tickAt (x t.ticks) t
  | 0, s => by
    simp only [ticksOn, andThen_next]
    cases tickAt (x s.ticks) s <;> rfl
  | n + 1, s => by
    rw [ticksOn, ticksOn, andThen_assoc]
    exact congrArg _ (funext (ticksOn_succ x n))

/-- From any tick on there is a first high tick. -/
theorem ReturnsHigh.first {x : Nat → Bool} (h : ReturnsHigh x) (t : Nat) :
    ∃ n, x (t + n) = true ∧ ∀ k < n, x (t + k) = false := by
  obtain ⟨u, hu, hx⟩ := h t
  have hex : ∃ n, x (t + n) = true := ⟨u - t, by rwa [Nat.add_sub_cancel' hu]⟩
  exact ⟨Nat.find hex, Nat.find_spec hex, fun k hk => by simpa using Nat.find_min hex hk⟩

/-- Settles O60: the receiver waits up to the first high tick, and that one ends the wait. -/
theorem framingErrorEndsWhenTheLineReturns : Obligations.FramingErrorEndsWhenTheLineReturns := by
  refine fun x s h hs => ⟨fun hx => ?_, fun n hlow => ?_⟩
  · obtain ⟨n, hhigh, hlow⟩ := hx.first s.ticks
    obtain ⟨u, hu, hsu, hst, htk, hsame⟩ := ticksOn_low h hs hlow
    obtain ⟨t, ht, -, hidle, -, hprev, hsame'⟩ := tickAt_framingError hsu hst true
    have hall := hsame.trans hsame'
    exact ⟨n + 1, t, by rw [ticksOn_succ, hu, andThen_next, htk, hhigh, ht], hidle, hprev, hall.rxFerr, hall.rxSlot,
      hall.rxValid⟩
  · obtain ⟨t, ht, -, hst, -, hsame⟩ := ticksOn_low h hs hlow
    exact ⟨t, ht, hst, hsame.rxFerr, hsame.rxSlot, hsame.rxValid⟩

end Sys2Proof.Machine

/-! # Encoding: what the codes select and where the bits of a frame stand (`30_encoding.md`)

Each format is taken apart once: a command word into its code and its value, the transmitter's code by the state it is
the code of, a frame word and a wire frame bit by bit. The statements are read off these. -/

namespace Sys2Proof.Machine

/-! ### Host command words (R103) -/

/-- The four bits `we ‖ reg[2:0]` on top of a command word are the code it was built from. (The library's
lemma does not rewrite at the width 20, which is not written as a sum.) -/
@[simp] theorem hostCode_append (op : BitVec 4) (v : Reg) : ((op ++ v : HostCmd)).extractLsb' 16 4 = op :=
  BitVec.extractLsb'_append_eq_left

/-- The low 16 bits of a command word are the value written. -/
@[simp] theorem hostValue_append (op : BitVec 4) (v : Reg) : ((op ++ v : HostCmd)).extractLsb' 0 16 = v :=
  BitVec.extractLsb'_append_eq_right

/-- Settles O2: a read's word is one number; a write's is taken apart into its code, which selects the row, and its
value. -/
theorem hostCommandWordsDecode : Obligations.HostCommandWordsDecode := by
  intro v
  refine ⟨rfl, rfl, rfl, rfl, rfl, rfl, rfl, rfl, ?_, ?_, ?_, ?_, ?_, ?_, ?_, ?_⟩ <;> simp [decodeHost]

/-- Every host access is what its own command word selects. -/
theorem decode_encode_host {i : Instr} (hi : isHostAccess i = true) : decode (encode i) = .ok i := by
  cases i
  case rdTxdata | rdRxdata | rdStatus | rdCtrl | rdTxdiv | rdRxdiv | rdRsvd6 | rdRsvd7 => rfl
  case wrTxdata v | wrRxdata v | wrStatus v | wrCtrl v | wrTxdiv v | wrRxdiv v | wrRsvd6 v | wrRsvd7 v =>
    simp [decode, encode, hostWord, decodeHost]
  all_goals cases hi

/-! ### The engines' codes (R104, R105) -/

/-- With a leading 0 a TXFSM code is that of a transmitter in `T_IDLE`, whose index is not looked at (R104). -/
theorem decodeTx_idle (x : BitVec 4) : decodeTx (0#1 ++ x) = .ok .txIdle :=
  decode_txCode_idle (s := { State.reset with txIdx := x }) rfl

/-- With a leading 1 a TXFSM code is that of a transmitter in `T_SHIFT` at the index below it (R104). -/
theorem decodeTx_shift (i : BitVec 4) :
    decodeTx (1#1 ++ i) =
      if i = 0#4 then .ok .txStart else if i.toNat ≤ 9 then .ok (.txData i)
      else if i = 10#4 then .ok .txParity else if i = 11#4 then .ok .txStop
      else .error .txCodeUnreachable :=
  decode_txCode_shift (s := { State.reset with txState := .shift, txIdx := i }) rfl

theorem decodeTx_data {i : BitVec 4} (h1 : 1 ≤ i.toNat) (h9 : i.toNat ≤ 9) :
    decodeTx (1#1 ++ i) = .ok (.txData i) := by
  rw [decodeTx_shift, if_neg (by bv_omega), if_pos h9]

theorem decodeTx_unreachable {i : BitVec 4} (h : 12 ≤ i.toNat) : decodeTx (1#1 ++ i) = .error .txCodeUnreachable := by
  rw [decodeTx_shift, if_neg (by bv_omega), if_neg (by omega), if_neg (by bv_omega), if_neg (by bv_omega)]

/-- Above 1 the counter selects the counting row of either state, at either level (R105). -/
theorem decodeRx_count {cnt : BitVec 17} (h : 1 < cnt.toNat) (x : Bool) :
    decodeRx 1#2 cnt x = .ok .rxSamplingCount ∧ decodeRx 2#2 cnt x = .ok .rxStopCheckCount := by
  have h0 : cnt ≠ 0#17 := by bv_omega
  have h1 : cnt ≠ 1#17 := by bv_omega
  simp [decodeRx, h0, h1]

/-- Settles O3: the transmitter's rows by the leading bit and the index, the receiver's by the counter and the level. -/
theorem engineCodesDecode : Obligations.EngineCodesDecode := by
  refine ⟨decodeTx_idle, rfl, fun _ => decodeTx_data, rfl, rfl, fun _ => decodeTx_unreachable, fun cnt x => ?_⟩
  refine ⟨rfl, rfl, fun h => decodeRx_count h x, ?_⟩
  rintro rfl
  exact ⟨rfl, fun hx => by rw [hx]; rfl, fun hx => by rw [hx]; rfl⟩

/-! ### The round trip -/

/-- Settles O1: a host access is read back from its command word, `TX.DATA` from its index, and a driver call from its
name; every other engine row has one code. -/
theorem decodeOfEncodeIsTheOperation : Obligations.DecodeOfEncodeIsTheOperation := by
  refine ⟨fun i hw hd => ?_, rfl⟩
  by_cases hh : isHostAccess i = true
  · exact decode_encode_host hh
  cases i
  case rxDeliver => exact absurd rfl hd
  case txData idx =>
    obtain ⟨h1, h9⟩ : 1 ≤ idx.toNat ∧ idx.toNat ≤ 9 := by simpa [WellFormed] using hw
    exact decodeTx_data h1 h9
  case txIdle | txStart | txParity | txStop => rfl
  case rxIdle | rxSamplingCount | rxSamplingSample | rxStopCheckCount | rxStopCheckHigh | rxStopCheckLow
    | rxFramingError => rfl
  case configure | send | sendAddress | sendData | receive => rfl
  all_goals exact absurd rfl hh

/-- Settles O4: six words of the opcode table, the decoder run on each. -/
theorem sampleWordsDecode : Obligations.SampleWordsDecode := ⟨rfl, rfl, rfl, rfl, rfl, rfl⟩

/-! ### The bits of a frame (R97 to R99) -/

/-- The flag in bit 0, the data byte above it (R97). -/
theorem getLsbD_payloadOf (a : Bool) (d : Byte) (k : Nat) :
    (payloadOf a d).getLsbD k = if k = 0 then a else d.getLsbD (k - 1) := by
  rcases k with _ | k
  · simp [payloadOf]
  · have hd : d.getLsbD k = true → k < 8 := BitVec.lt_of_getLsbD
    simp only [payloadOf, BitVec.getLsbD_or, BitVec.getLsbD_setWidth, BitVec.getLsbD_shiftLeft, BitVec.getLsbD_ofBool]
    grind

/-- The payload in bits 8:0, the parity bit above it, and zeros (R98). -/
theorem getLsbD_frameWordOf (p : Payload) (b : Bool) (k : Nat) :
    (frameWordOf p b).getLsbD k = if k < 9 then p.getLsbD k else decide (k = 9) && b := by
  have hp : p.getLsbD k = true → k < 9 := BitVec.lt_of_getLsbD
  simp only [frameWordOf, BitVec.getLsbD_or, BitVec.getLsbD_setWidth, BitVec.getLsbD_shiftLeft, BitVec.getLsbD_ofBool]
  grind

/-- Settles O5: each bit of the word is a bit of the payload, the parity bit or zero, and each bit of the payload is the
flag or a bit of the data byte. -/
theorem frameWordLayout : Obligations.FrameWordLayout := by
  intro a d p
  simp only [getLsbD_frameWordOf, getLsbD_payloadOf]
  refine ⟨rfl, fun k hk => ?_, rfl, fun k hk => ?_⟩
  · simp [hk]
  · rw [if_neg (by omega), decide_eq_false (by omega), Bool.false_and]

/-- The wire frame of a frame word, sent from bit 0 on (R99). -/
def wireFrame (w : FrameWord) : BitVec 12 := (1#12 <<< 11) ||| (w.setWidth 12 <<< 1)

/-- 0 in bit 0, the word above it, 1 in bit 11. -/
theorem getLsbD_wireFrame (w : FrameWord) (k : Nat) :
    (wireFrame w).getLsbD k = (decide (k = 11) || decide (1 ≤ k) && w.getLsbD (k - 1)) := by
  have hw : w.getLsbD (k - 1) = true → k - 1 < 10 := BitVec.lt_of_getLsbD
  have hstop : (1#12 <<< 11) = BitVec.twoPow 12 11 := rfl
  rw [wireFrame, hstop, BitVec.getLsbD_or, BitVec.getLsbD_twoPow, BitVec.getLsbD_shiftLeft, BitVec.getLsbD_setWidth]
  grind

theorem wireBit_word (w : FrameWord) {i : BitVec 4} (h1 : 1 ≤ i.toNat) (h10 : i.toNat ≤ 10) :
    wireBit w i = w.getLsbD (i.toNat - 1) := by
  rw [wireBit, if_neg (by bv_omega), if_pos h10]

/-- Settles O6: the start bit, the word and the stop bit are the three cases of the wire bit and the three parts of
the wire frame. -/
theorem wireBitIsTheWireFrame : Obligations.WireBitIsTheWireFrame := by
  intro w i hi
  have h0 : i.toNat = 0 → wireBit w i = false := fun h => by rw [BitVec.eq_of_toNat_eq (y := 0#4) h]; rfl
  have h11 : i.toNat = 11 → wireBit w i = true := fun h => by rw [BitVec.eq_of_toNat_eq (y := 11#4) h]; rfl
  refine ⟨?_, h0, wireBit_word w, h11⟩
  change _ = (wireFrame w).getLsbD i.toNat
  rw [getLsbD_wireFrame]
  obtain h | h | ⟨h1, h10⟩ : i.toNat = 0 ∨ i.toNat = 11 ∨ 1 ≤ i.toNat ∧ i.toNat ≤ 10 := by omega
  · simp [h0 h, h]
  · simp [h11 h, h]
  · rw [wireBit_word w h1 h10, decide_eq_false (by omega), decide_eq_true h1, Bool.true_and, Bool.false_or]

/-! ### No fault from a sound state (R104, R124, R33) -/

/-- Settles O51: soundness keeps the transmitter's index at most 11 and the receiver's counter at least 1, which is all
that `tickAt_total` asks of the two codes. -/
theorem soundStatesAlwaysTick : Obligations.SoundStatesAlwaysTick := fun _ x h => tickAt_total h x

end Sys2Proof.Machine

/-! # Bit timing: the divisors and `EN` as the host sees them (`40_bit_timing.md`) -/

namespace Sys2Proof.Machine

variable {s : State}

/-- `CTRL` reads as 1 or 0 by `EN`, with the other bits 0 (R238). -/
theorem ctrlWord_eq_ite (s : State) : ctrlWord s = if s.en then 0x0001#16 else 0x0000#16 := by
  cases h : s.en
  · simp [ctrlWord, h]
  · simp [ctrlWord, h]

/-- Settles O10: each of the three is `returnRead` of its register, and `CTRL` has no bit but `EN`. -/
theorem controlReadsReturnTheRegister : Obligations.ControlReadsReturnTheRegister :=
  fun s => ⟨rfl, rfl, ctrlWord s, rfl, ctrlWord_eq_ite s⟩

theorem execWrTxdiv_of_enabled (he : s.en = true) (v : Reg) :
    execWrTxdiv v s = .refused .configChangeWhileEnabled := if_pos he

theorem execWrRxdiv_of_enabled (he : s.en = true) (v : Reg) :
    execWrRxdiv v s = .refused .configChangeWhileEnabled := if_pos he

/-- Settles O13: `EN` alone decides between the two answers of each write, whatever the value. -/
theorem divisorWritesNeedDisable : Obligations.DivisorWritesNeedDisable := fun _ v =>
  ⟨fun he => ⟨execWrTxdiv_of_disabled he v, execWrRxdiv_of_disabled he v⟩,
    fun he => ⟨execWrTxdiv_of_enabled he v, execWrRxdiv_of_enabled he v⟩⟩

end Sys2Proof.Machine

/-! # Transmit: the write that fills the buffer, the five transitions, one frame on the line (`41_transmit.md`)

The host's write comes first, then each transition by itself. `FrameAt` then says once where the transmitter is `n` ticks
into a frame; the schedule of a frame and the end of a hold are both read off it. -/

namespace Sys2Proof.Machine

variable {s t : State} {x : Bool} {v : Reg} {i : Instr}

/-! ### `WR TXDATA` (R140): the converses of `execWrTxdata_next` -/

/-- The reserved bits are clear exactly in a value below 1024 (R92). -/
theorem txWordOk_eq (v : Reg) : txWordOk v = decide (v.toNat < 1024) := by
  have h : (v.extractLsb' 10 6).toNat = v.toNat / 1024 := by
    rw [BitVec.extractLsb'_toNat, Nat.shiftRight_eq_div_pow]
    omega
  rw [txWordOk, Bool.eq_iff_iff, beq_iff_eq, decide_eq_true_iff, ← BitVec.toNat_inj, h]
  simp

theorem execWrTxdata_of_disabled (he : s.en = false) (v : Reg) :
    execWrTxdata v s = .refused .txWriteWhileDisabled := by
  simp [execWrTxdata, he]

theorem execWrTxdata_of_malformed (he : s.en = true) (hv : 1024 ≤ v.toNat) :
    execWrTxdata v s = .refused .malformedTxWord := by
  simp [execWrTxdata, he, txWordOk_eq, hv]

theorem execWrTxdata_of_full (he : s.en = true) (hv : v.toNat < 1024) (hf : s.txFull = true) :
    execWrTxdata v s = .next (holdWrite s v) := by
  simp [execWrTxdata, he, txWordOk_eq, hv, hf]

theorem execWrTxdata_of_empty (he : s.en = true) (hv : v.toNat < 1024) (hf : s.txFull = false) :
    execWrTxdata v s = .next (acceptWord s v) := by
  simp [execWrTxdata, he, txWordOk_eq, hv, hf]

/-- The ten bits the slot takes, as the statements write them. -/
theorem acceptWord_eq (s : State) (v : Reg) :
    acceptWord s v =
      { s with txSlot := v.setWidth 10, txFull := true, held := none, trace := .accepted :: s.trace } := by
  rw [acceptWord, BitVec.setWidth_eq_extractLsb' (by decide)]

/-! ### The step of a held host (log entries 1 and 5) -/

theorem step_of_held (hh : s.held = some v) : step s = heldTurn v s := by simp only [step, turn, hh]

theorem step_of_held_empty (hh : s.held = some v) (hf : s.txFull = false) (hr : s.script.head? ≠ some .reset) :
    step s = exec (.wrTxdata v) s := by
  rw [step_of_held hh, heldTurn]
  split
  next hs => simp [hs] at hr
  all_goals simp only [hf, Bool.false_eq_true, ↓reduceIte]

theorem step_of_held_full (hh : s.held = some v) (hf : s.txFull = true) (ht : s.script.head? ≠ some .tick)
    (hr : s.script.head? ≠ some .reset) : step s = tick s := by
  rw [step_of_held hh, heldTurn]
  split
  next hs => simp [hs] at hr
  next hs => simp [hs] at ht
  all_goals simp only [hf, ↓reduceIte]

/-- Settles O16: the four cases of the write in the order of its tests, then the three of a held host's step. -/
theorem txdataWriteFillsHoldsOrIsRefused : Obligations.TxdataWriteFillsHoldsOrIsRefused := by
  refine fun s v => ⟨fun he => execWrTxdata_of_disabled he v, execWrTxdata_of_malformed, execWrTxdata_of_full,
    fun he hv hf => ?_, step_of_held_empty, step_of_held_full, fun hh hf rest hs => ?_⟩
  · rw [← acceptWord_eq]
    exact execWrTxdata_of_empty he hv hf
  · simp only [step_of_held hh, heldTurn, hs, hf, ↓reduceIte]

/-- Settles O17: each of the six answers its refusal without a look at the state or the value. -/
theorem absentAccessesAreRefused : Obligations.AbsentAccessesAreRefused :=
  fun _ _ => ⟨rfl, rfl, rfl, rfl, rfl, rfl⟩

/-! ### The five transitions (R143 to R148): `exec` of the operation a code selects is the transmitter's tick -/

/-- Settles O20: `T_IDLE` selects `TX.IDLE`, and `tx_full` decides what that does. -/
theorem txIdleStartsTheFrame : Obligations.TxIdleStartsTheFrame := by
  intro s he hs
  rw [← txTick_eq_exec (decode_txCode_idle hs), txTick_of_idle he hs]
  exact ⟨fun hf => by rw [if_pos hf]; rfl, fun hf => by simp [hf]⟩

/-- What the phases of R145 to R147 share: the bit on the line is held, and then the next one is emitted. -/
theorem exec_of_phase (hd : decode (.tx (txCode s)) = .ok i) (he : s.en = true) (hs : s.txState = .shift)
    (hi : s.txIdx.toNat ≤ 10) :
    (1 < s.txCnt.toNat → exec i s = .next (txCount s)) ∧
      (s.txCnt.toNat ≤ 1 → exec i s = .next (txEmit s (s.txIdx + 1#4))) := by
  rw [← txTick_eq_exec hd]
  exact ⟨txTick_of_count he hs (by omega), txTick_of_emit he hs hi⟩

/-- Settles O21: index 0 selects `TX.START`, and the next wire bit is bit 0 of the word. -/
theorem txStartSendsTheFlag : Obligations.TxStartSendsTheFlag := by
  intro s he hs hi
  have h := exec_of_phase (i := .txStart) (by rw [decode_txCode_shift hs, if_pos hi]) he hs (by simp [hi])
  rw [hi] at h
  exact h

/-- Settles O22: an index `i` from 1 to 9 selects `TX.DATA`, and wire bit `i + 1` is bit `i` of the word. -/
theorem txDataSendsTheNextBit : Obligations.TxDataSendsTheNextBit := by
  intro s i he hs hi h1 h9
  have hd : decode (.tx (txCode s)) = .ok (.txData i) := by
    rw [decode_txCode_shift hs, hi, if_neg (by bv_omega), if_pos h9]
  have hn : (i + 1#4).toNat = i.toNat + 1 := by bv_omega
  have hb : wireBit s.txSlot (i + 1#4) = s.txSlot.getLsbD i.toNat := by
    rw [wireBit_word _ (by omega) (by omega), hn, Nat.add_sub_cancel]
  have h := exec_of_phase hd he hs (by rw [hi]; omega)
  rw [hi, txEmit, hb] at h
  exact h

/-- Settles O23: index 10 selects `TX.PARITY`, and the next wire bit is the stop bit. -/
theorem txParitySendsTheStopBit : Obligations.TxParitySendsTheStopBit := by
  intro s he hs hi
  have h := exec_of_phase (i := .txParity) (by rw [decode_txCode_shift hs, hi]; rfl) he hs (by simp [hi])
  rw [hi] at h
  exact h

/-- Settles O24: index 11 selects `TX.STOP`, which holds the stop bit and then ends the frame. -/
theorem txStopFreesTheBuffer : Obligations.TxStopFreesTheBuffer := by
  intro s he hs hi
  have hd : decode (.tx (txCode s)) = .ok .txStop := by rw [decode_txCode_shift hs, hi]; rfl
  rw [← txTick_eq_exec hd]
  exact ⟨txTick_of_count he hs (by simp [hi]), txTick_of_finish he hs hi⟩

/-! ### A disabled tick (R149, R182) -/

theorem tickAt_of_disabled (x : Bool) (he : s.en = false) :
    tickAt x s = .next (endTick (disabledTick (beginTick s x))) := by
  simp [tickAt, he]

/-- Settles O35: with `EN = 0` a tick is `disabledTick` between its two ends. -/
theorem disabledTickOnlyClearsPrev : Obligations.DisabledTickOnlyClearsPrev :=
  fun s he => tickAt_of_disabled (nextLevel s) he

/-! ### Where the transmitter is in a frame (R150) -/

/-- Within a frame fewer ticks have gone by than twelve bits take. -/
theorem txElapsed_lt (h : s.Sound) (hs : s.txState = .shift) : txElapsed s < 12 * s.txDiv.toNat := by
  obtain ⟨-, -, hi, h1, hle, -⟩ := txSound_of_shift h.1 hs
  have := Nat.mul_le_mul_right s.txDiv.toNat hi
  rw [txElapsed]
  omega

/-- The last tick of the stop bit ends the frame (R148). -/
theorem tickAt_txFinish (h : s.Sound) (hs : s.txState = .shift) (hlast : txElapsed s + 1 = 12 * s.txDiv.toNat)
    (ht : tickAt x s = .next t) : t.txState = .idle ∧ t.txFull = false := by
  obtain ⟨-, he, hi, h1, hle, -⟩ := txSound_of_shift h.1 hs
  have h11 : s.txIdx.toNat = 11 := by
    by_contra hne
    have := Nat.mul_le_mul_right s.txDiv.toNat (show s.txIdx.toNat ≤ 10 by omega)
    rw [txElapsed] at hlast
    omega
  rw [txElapsed, h11] at hlast
  have g := tickAt_txAgree he ht
    (txTick_of_finish (s := beginTick s x) he hs (BitVec.eq_of_toNat_eq h11) (by simp; omega))
  exact ⟨g.txState, g.txFull⟩

/-- With nothing to send the transmitter stays as it is (R143). -/
theorem tickAt_txWait (he : s.en = true) (hs : s.txState = .idle) (hf : s.txFull = false)
    (ht : tickAt x s = .next t) : t.txState = .idle ∧ t.txFull = false := by
  have g := tickAt_txAgree he ht (txTick_of_idle he hs)
  simp only [beginTick_txFull, hf, Bool.false_eq_true, ↓reduceIte] at g
  exact ⟨g.txState.trans hs, g.txFull.trans hf⟩

/-- A sound, enabled state `n` ticks after `w` was there to be sent: `w` waits; or its frame is under way, the start bit
being on the line after the first tick; or all twelve bits are sent and the buffer is free. -/
structure FrameAt (w : FrameWord) (n : Nat) (s : State) : Prop where
  sound : s.Sound
  en : s.en = true
  txSlot : s.txSlot = w
  phase : (n = 0 ∧ s.txState = .idle ∧ s.txFull = true) ∨
    (s.txState = .shift ∧ n = txElapsed s + 1) ∨
    (12 * s.txDiv.toNat < n ∧ s.txState = .idle ∧ s.txFull = false)

section
variable {w : FrameWord} {n : Nat}

/-- A tick takes a frame one tick on, at either level of the input. -/
theorem FrameAt.tickAt (h : FrameAt w n s) (ht : tickAt x s = .next t) : FrameAt w (n + 1) t := by
  obtain ⟨hs, he, hw, hp⟩ := h
  obtain ⟨hen, hdiv, -, hslot, -⟩ := tickAt_frame ht
  refine ⟨tickAt_sound hs ht, hen.trans he, hslot.trans hw, .inr ?_⟩
  rw [hdiv]
  rcases hp with ⟨rfl, hst, hf⟩ | ⟨hst, rfl⟩ | ⟨hn, hst, hf⟩
  · obtain ⟨hst', hel⟩ := tickAt_txBegin he hst hf ht
    exact .inl ⟨hst', by rw [hel]⟩
  · by_cases hlast : txElapsed s + 1 < 12 * s.txDiv.toNat
    · obtain ⟨hst', hel⟩ := tickAt_txElapsed hs hst hlast ht
      exact .inl ⟨hst', by rw [hel]⟩
    · have := txElapsed_lt hs hst
      exact .inr ⟨by omega, tickAt_txFinish hs hst (by omega) ht⟩
  · exact .inr ⟨by omega, tickAt_txWait he hst hf ht⟩

/-- From the first tick on through the last of the stop bit: the wire bit of the tick (R150). -/
theorem FrameAt.sending (h : FrameAt w n s) (h1 : 1 ≤ n) (h12 : n ≤ 12 * s.txDiv.toNat) :
    s.txOut = wireBit w (BitVec.ofNat 4 ((n - 1) / s.txDiv.toNat)) ∧ s.txFull = true ∧ s.txState = .shift := by
  obtain ⟨hs, -, rfl, ⟨h0, -⟩ | ⟨hst, rfl⟩ | ⟨hn, -⟩⟩ := h
  · omega
  · obtain ⟨hf, -⟩ := txSound_of_shift hs.1 hst
    exact ⟨txOut_of_shift hs hst, hf, hst⟩
  · omega

/-- After the last tick of the stop bit: the line idle, the buffer free (R150). -/
theorem FrameAt.sent (h : FrameAt w n s) (h12 : 12 * s.txDiv.toNat < n) :
    s.txOut = true ∧ s.txFull = false ∧ s.txState = .idle := by
  obtain ⟨hs, -, -, ⟨h0, -⟩ | ⟨hst, rfl⟩ | ⟨-, hst, hf⟩⟩ := h
  · omega
  · have := txElapsed_lt hs hst
    omega
  · exact ⟨(txSound_iff_of_idle hst).mp hs.1, hf, hst⟩

theorem FrameAt.txFull (h : FrameAt w n s) (h12 : n ≤ 12 * s.txDiv.toNat) : s.txFull = true := by
  rcases h.phase with ⟨-, -, hf⟩ | ⟨-, rfl⟩ | ⟨hn, -⟩
  · exact hf
  · exact (h.sending (by omega) h12).2.1
  · omega

/-- A word just written waits. -/
theorem frameAt_acceptWord (h : s.Sound) (he : s.en = true) (hf : s.txFull = false) (v : Reg) :
    FrameAt (v.setWidth 10) 0 (acceptWord s v) where
  sound := acceptWord_sound v h he hf
  en := he
  txSlot := by rw [acceptWord_eq]
  phase := .inl ⟨rfl, txState_of_txFull_false (s := s) h.1 hf, rfl⟩

/-- A word in the buffer is somewhere in its frame. -/
theorem frameAt_of_full (h : s.Sound) (he : s.en = true) (hf : s.txFull = true) :
    ∃ n ≤ 12 * s.txDiv.toNat, FrameAt s.txSlot n s := by
  cases hs : s.txState with
  | idle => exact ⟨0, Nat.zero_le _, h, he, rfl, .inl ⟨rfl, hs, hf⟩⟩
  | shift => exact ⟨txElapsed s + 1, txElapsed_lt h hs, h, he, rfl, .inr (.inl ⟨hs, rfl⟩)⟩

/-- By induction on the ticks: the frame goes on, whatever the input line does. -/
theorem FrameAt.ticksFor : ∀ {m n : Nat} {s : State}, FrameAt w n s →
    ∃ t, ticksFor m s = .next t ∧ FrameAt w (n + m) t ∧ t.txDiv = s.txDiv
  | 0, _, s, h => ⟨s, rfl, h, rfl⟩
  | m + 1, n, s, h => by
    obtain ⟨u, hu⟩ := tickAt_total h.sound (nextLevel s)
    obtain ⟨t, ht, hft, hdiv⟩ := (h.tickAt hu).ticksFor (m := m)
    obtain ⟨-, hdu, -⟩ := tickAt_frame hu
    exact ⟨t, by rw [Machine.ticksFor, tick, hu, andThen_next, ht], by rwa [Nat.add_right_comm] at hft,
      hdiv.trans hdu⟩

end

/-- Settles O56: the write leaves a `FrameAt` of 0, and `n` ticks later it is a `FrameAt` of `n`. -/
theorem transmittedFrameSchedule : Obligations.TransmittedFrameSchedule := by
  intro s0 s v hs he hf hv hw n
  cases (execWrTxdata_of_empty he hv hf).symm.trans hw
  obtain ⟨t, ht, hft, hdiv⟩ := (frameAt_acceptWord hs he hf v).ticksFor (m := n)
  rw [Nat.zero_add] at hft
  rw [← hdiv]
  exact ⟨t, ht, hft.sending, hft.sent⟩

/-! ### A hold ends (R140, R76) -/

/-- A run of one step more begins with that step. -/
theorem run_succ_of_step (h : step s = .next t) (k : Nat) : core.run (k + 1) s = core.run k t := by
  have hcore : core.step s = .next t := h
  simp only [Host.Core.run, hcore]

/-- By induction on the ticks to come: the held host waits out the frame, one tick a step, and its word is accepted in
the step after the frame's last tick. -/
theorem FrameAt.run_held {w : FrameWord} (hv : v.toNat < 1024) : ∀ {k n : Nat} {s : State}, FrameAt w n s →
    n + k = 12 * s.txDiv.toNat + 1 → s.held = some v → s.script = [] →
    ∃ t, core.run (k + 1) s = .next t ∧
      t.ticks = s.ticks + k ∧ t.held = none ∧ t.txFull = true ∧ t.txSlot = v.setWidth 10
  | 0, n, s, h, hk, hh, hscr => by
    obtain ⟨-, hf, -⟩ := h.sent (by omega)
    have hstep : step s = .next (acceptWord s v) :=
      (step_of_held_empty hh hf (by simp [hscr])).trans (execWrTxdata_of_empty h.en hv hf)
    exact ⟨acceptWord s v, run_succ_of_step hstep 0, rfl, rfl, rfl, by rw [acceptWord_eq]⟩
  | k + 1, n, s, h, hk, hh, hscr => by
    obtain ⟨u, hu⟩ := tickAt_total h.sound (nextLevel s)
    have hstep : step s = .next u :=
      (step_of_held_full hh (h.txFull (by omega)) (by simp [hscr]) (by simp [hscr])).trans hu
    obtain ⟨-, hdiv, -, -, -, -, -, -, hscru, -, hhu, -⟩ := tickAt_frame hu
    have hticks := tickAt_ticks hu
    obtain ⟨t, ht, htk, hdone⟩ :=
      (h.tickAt hu).run_held hv (k := k) (by rw [hdiv]; omega) (hhu.trans hh) (hscru.trans hscr)
    exact ⟨t, (run_succ_of_step hstep _).trans ht, by omega, hdone⟩

/-- Settles O57: the word in the buffer is at some tick of its frame, and the held write waits for the rest of it. -/
theorem heldWriteIsAccepted : Obligations.HeldWriteIsAccepted := by
  intro s v hs he hf hh hv hscr
  obtain ⟨n, hn, h⟩ := frameAt_of_full hs he hf
  obtain ⟨t, ht⟩ := h.run_held hv (k := 12 * s.txDiv.toNat + 1 - n) (by omega) hh hscr
  exact ⟨_, t, Nat.sub_le _ _, ht⟩

end Sys2Proof.Machine

/-! # Receive: the transitions and the host's read, what an access leaves alone, one frame from its start edge
(`42_receive.md`)

The rows of R190 are guarded updates, so each statement of a transition is its guard and its update. A frame is then
followed from its start edge by the ticks still to come, with `Receiving` for what has been sampled and the levels taken
from the listed line. -/

namespace Sys2Proof.Machine

variable {s t : State}

/-! ### The transitions (R172 to R180) -/

theorem rxAt_eq_true {r : RxState} : rxAt s r = true ↔ s.en = true ∧ s.rxState = r := by
  simp [rxAt]

theorem stopHighSelected_eq_true :
    stopHighSelected s = true ↔ (s.en = true ∧ s.rxState = .stopCheck) ∧ s.rxCnt = 1#17 ∧ s.rxIn = true := by
  simp [stopHighSelected, rxAt_eq_true, and_assoc]

/-- Every row ends with the level latched (R171). -/
theorem rxLatch_eq {x : Bool} (hx : s.rxIn = x) : rxLatch s = { s with rxPrev := x } := by rw [rxLatch, hx]

/-- The 17-bit load of the start edge does not wrap (R126). -/
theorem firstSampleDelay_eq (d : BitVec 16) : firstSampleDelay d = BitVec.ofNat 17 (d.toNat + d.toNat / 2) :=
  BitVec.eq_of_toNat_eq (by rw [firstSampleDelay_toNat, BitVec.toNat_ofNat, Nat.mod_eq_of_lt (by omega)])

/-- Settles O25: `rx_prev` and the input decide between the start edge and the latch alone. -/
theorem rxIdleFindsTheFallingEdge : Obligations.RxIdleFindsTheFallingEdge := by
  refine fun s he hs => ⟨fun hp hx => ?_, fun h => ?_⟩ <;>
    refine whenSelected_eq_next.mpr ⟨rxAt_eq_true.mpr ⟨he, hs⟩, ?_⟩
  · rw [if_pos (by simp [hp, hx]), ← firstSampleDelay_eq]
    exact rxLatch_eq hx
  · rw [if_neg (by rcases h with h | h <;> simp [h])]
    exact rxLatch_eq rfl

/-- Settles O26: the two counting rows are one update, under the guards of their states. -/
theorem rxCountsOnly : Obligations.RxCountsOnly := fun s he hc =>
  ⟨fun hs => whenSelected_eq_next.mpr ⟨by simp [rxAt_eq_true, he, hs, hc], rfl⟩,
    fun hs => whenSelected_eq_next.mpr ⟨by simp [rxAt_eq_true, he, hs, hc], rfl⟩⟩

/-- Settles O27: the sampled word is `shiftIn` of the level, whose bits `getLsbD_shiftIn` gives. -/
theorem rxSampleShiftsIn : Obligations.RxSampleShiftsIn := by
  refine fun s he hs hc => ⟨shiftIn s.rxIn s.rxShift,
    whenSelected_eq_next.mpr ⟨by simp [rxAt_eq_true, he, hs, hc], by rw [← hs]; rfl⟩, ?_, fun k hk => ?_⟩
  · rw [getLsbD_shiftIn _ _ 9 (by decide), if_pos rfl]
  · rw [getLsbD_shiftIn _ _ k (by omega), if_neg (by omega)]

/-- Settles O28: the transition and the action within it share their guard. -/
theorem rxHighStopBitDelivers : Obligations.RxHighStopBitDelivers := by
  intro s he hs hc hx
  have hsel := stopHighSelected_eq_true.mpr ⟨⟨he, hs⟩, hc, hx⟩
  exact ⟨whenSelected_eq_next.mpr ⟨hsel, rxLatch_eq hx⟩, whenSelected_eq_next.mpr ⟨hsel, rfl⟩⟩

/-- Settles O29: the row raises the flag and latches the low level. -/
theorem rxLowStopBitIsAFramingError : Obligations.RxLowStopBitIsAFramingError := fun s he hs hc hx =>
  whenSelected_eq_next.mpr ⟨by simp [rxAt_eq_true, he, hs, hc, hx], rxLatch_eq hx⟩

/-- Settles O30: the level alone decides whether the wait ends, and it is latched either way. -/
theorem rxFramingErrorWaitsForHigh : Obligations.RxFramingErrorWaitsForHigh := by
  refine fun s he hs => ⟨fun hx => ?_, fun hx => ?_⟩ <;>
    refine whenSelected_eq_next.mpr ⟨rxAt_eq_true.mpr ⟨he, hs⟩, ?_⟩
  · rw [if_pos hx]
    exact rxLatch_eq hx
  · rw [if_neg (by simp [hx])]
    exact rxLatch_eq hx

/-! ### The host's accesses (R186, R189) -/

/-- Settles O12: `rx_valid` decides between the pop and the draw. -/
theorem rxdataReadPopsTheSlot : Obligations.RxdataReadPopsTheSlot :=
  fun s => ⟨fun hv => if_pos hv, fun hv => ⟨Config.anyBits s.ident 16 s.draws, if_neg (by simp [hv])⟩⟩

/-- `t` differs from `s` at most in what a host access may write: `EN` with `rx_prev` (log entry 7), the divisors, the
transmitter's buffer, the receiver's occupancy and flag, and the model's own record of the access. -/
def WritesOnlyHost (s t : State) : Prop :=
  t = { s with
    en := t.en, rxPrev := t.rxPrev, txDiv := t.txDiv, rxDiv := t.rxDiv, txSlot := t.txSlot, txFull := t.txFull,
    rxValid := t.rxValid, rxFerr := t.rxFerr, held := t.held, readValue := t.readValue, draws := t.draws,
    trace := t.trace }

/-- No host access writes an engine's state, index, counter, line or received frame (R189). -/
theorem exec_host_writesOnlyHost {i : Instr} (hi : isHostAccess i = true) (h : exec i s = .next t) :
    WritesOnlyHost s t := by
  cases i
  case rdStatus | rdCtrl | rdTxdiv | rdRxdiv => cases h; rfl
  case rdRxdata => obtain ⟨-, rfl⟩ | ⟨-, rfl⟩ := execRdRxdata_next h <;> rfl
  case wrTxdata => obtain ⟨-, -, ⟨-, rfl⟩ | ⟨-, rfl⟩⟩ := execWrTxdata_next h <;> rfl
  case wrStatus => obtain ⟨-, ⟨-, rfl⟩ | ⟨-, rfl⟩⟩ := execWrStatus_next h <;> rfl
  case wrCtrl => obtain ⟨rfl, -⟩ | ⟨rfl, -⟩ | ⟨rfl, -⟩ := execWrCtrl_next h <;> rfl
  case wrTxdiv => obtain ⟨-, rfl⟩ := execWrTxdiv_next h; rfl
  case wrRxdiv => obtain ⟨-, rfl⟩ := execWrRxdiv_next h; rfl
  case rdTxdata | rdRsvd6 | rdRsvd7 | wrRxdata | wrRsvd6 | wrRsvd7 => cases h
  all_goals cases hi

/-- Settles O19: the engines' registers are in no access's write set, and `HostFrame` says who writes `tx_slot`. -/
theorem hostAccessesLeaveTheEngines : Obligations.HostAccessesLeaveTheEngines := by
  intro cmd s t h
  have hi := isHostAccess_decodeHost cmd
  have hw := exec_host_writesOnlyHost hi h
  have hf := hostFrame_of_exec hi h
  rw [hw]
  exact ⟨rfl, rfl, rfl, rfl, rfl, rfl, rfl, rfl, rfl, rfl, fun hne => (hf.txSlot.resolve_left hne).2⟩

/-! ### One frame from its start edge (R183) -/

/-- One tick more, made last. -/
theorem ticksFor_succ : ∀ (n : Nat) (s : State), ticksFor (n + 1) s = andThen (ticksFor n s) tick
  | 0, s => by
    simp only [ticksFor, andThen_next]
    cases tick s <;> rfl
  | n + 1, s => by
    rw [ticksFor, ticksFor, andThen_assoc]
    exact congrArg _ (funext (ticksFor_succ n))

/-- The next listed level is the one the tick hears (R47). -/
theorem nextLevel_of_line {line : List Bool} {n : Nat} (h : s.line = line.drop n) (hn : n < line.length) :
    nextLevel s = line.getD n true := by
  rw [List.drop_eq_getElem_cons hn] at h
  simp only [nextLevel, h, List.getD_eq_getElem _ _ hn]

/-- The level that is bit `k` of a frame at divisor `R`, where `later` lists the levels after the start edge (R183). -/
def sampledLevel (R : Nat) (later : List Bool) (k : Nat) : Bool := later.getD (R + R / 2 + k * R - 1) true

/-- A sound receiver `n` ticks after a start edge: it holds what it has sampled of `later`, the rest of `later` is still
to come, and the ticks since the edge and those up to the stop bit make up a frame. -/
structure Hearing (later : List Bool) (n : Nat) (s : State) : Prop where
  sound : s.Sound
  receiving : Receiving (sampledLevel s.rxDiv.toNat later) s
  line : s.line = later.drop n
  clock : rxRemaining s + n = 11 * s.rxDiv.toNat + s.rxDiv.toNat / 2

section
variable {later : List Bool} {n : Nat}

/-- The edge tick (R172). -/
theorem hearing_of_edge (hs : s.Sound) (he : s.en = true) (hi : s.rxState = .idle) (hp : s.rxPrev = true)
    (hl : s.line = false :: later) :
    ∃ t, tick s = .next t ∧ Hearing later 0 t ∧ t.rxDiv = s.rxDiv ∧ SameDelivery s t := by
  obtain ⟨t, ht⟩ := tickAt_total hs false
  have hx : nextLevel s = false := by simp [nextLevel, hl]
  obtain ⟨-, -, hd, -, -, -, -, -, -, -, -, -, -, -, -, hline, -⟩ := tickAt_frame ht
  obtain ⟨hrec, hrem, hsame⟩ := tickAt_rxBegin (sampledLevel s.rxDiv.toNat later) he hi hp ht
  refine ⟨t, by rw [tick, hx, ht], ⟨tickAt_sound hs ht, hd ▸ hrec, ?_, by rw [hrem, hd]; rfl⟩, hd, hsame⟩
  rw [hline, hl]
  rfl

/-- A tick before the stop bit's takes the frame one tick on. -/
theorem Hearing.tick (h : Hearing later n s) (hn : n < later.length) (hr : rxRemaining s ≠ 1) :
    ∃ t, tick s = .next t ∧ Hearing later (n + 1) t ∧ t.rxDiv = s.rxDiv ∧ SameDelivery s t := by
  obtain ⟨hs, hrec, hl, hc⟩ := h
  obtain ⟨t, ht⟩ := tickAt_total hs (nextLevel s)
  obtain ⟨-, -, hd, -, -, -, -, -, -, -, -, -, -, -, -, hline, -⟩ := tickAt_frame ht
  obtain ⟨hrec', hrem, hsame⟩ := hrec.tickAt hs hr (fun k hk he => by
    have hsum : (10 - k) * s.rxDiv.toNat + k * s.rxDiv.toNat = 10 * s.rxDiv.toNat := by
      rw [← Nat.add_mul, Nat.sub_add_cancel hk.le]
    rw [nextLevel_of_line hl hn, sampledLevel]
    congr 1
    omega) ht
  exact ⟨t, ht, ⟨tickAt_sound hs ht, hd ▸ hrec', by rw [hline, hl, List.tail_drop], by rw [hd]; omega⟩, hd, hsame⟩

/-- By induction on the ticks: after the edge and `n` ticks more, before the stop bit's, the frame is under way and the
host's side is untouched. -/
theorem hearing_ticksFor (hs : s.Sound) (he : s.en = true) (hi : s.rxState = .idle) (hp : s.rxPrev = true)
    (hl : s.line = false :: later) (hlen : 11 * s.rxDiv.toNat + s.rxDiv.toNat / 2 ≤ later.length) :
    ∀ n < 11 * s.rxDiv.toNat + s.rxDiv.toNat / 2,
      ∃ t, ticksFor (n + 1) s = .next t ∧ Hearing later n t ∧ t.rxDiv = s.rxDiv ∧ SameDelivery s t
  | 0, _ => by
    rw [ticksFor_succ]
    exact hearing_of_edge hs he hi hp hl
  | n + 1, hn => by
    obtain ⟨u, hu, hear, hd, hsame⟩ := hearing_ticksFor hs he hi hp hl hlen n (by omega)
    have hclk := hear.clock
    rw [hd] at hclk
    obtain ⟨t, ht, hear', hd', hsame'⟩ := hear.tick (by omega) (by omega)
    exact ⟨t, by rw [ticksFor_succ, hu, andThen_next, ht], hear', hd'.trans hd, hsame.trans hsame'⟩

end

/-- The tick of the stop bit finds the ten samples taken and the counter expired. -/
theorem Receiving.stopCheck_of_last {level : Nat → Bool} (h : Receiving level s) (hs : s.Sound)
    (hr : rxRemaining s = 1) : s.rxState = .stopCheck ∧ s.rxCnt = 1#17 := by
  obtain ⟨-, hd, -, hc, hz⟩ := h.sound hs
  rw [rxRemaining] at hr
  have hb : s.rxBits.toNat = 0 := by
    by_contra h0
    have := Nat.mul_le_mul (Nat.one_le_iff_ne_zero.mpr h0) hd
    omega
  exact ⟨hz.mpr hb, by bv_omega⟩

/-- The last tick of a frame: a low stop bit raises the flag and delivers nothing (R179). -/
theorem Receiving.tickAt_stopLow {level : Nat → Bool} (h : Receiving level s) (hs : s.Sound) (hr : rxRemaining s = 1)
    (ht : Machine.tickAt false s = .next t) :
    t.rxState = .framingError ∧ t.rxFerr = true ∧ t.rxValid = s.rxValid ∧ t.rxSlot = s.rxSlot := by
  obtain ⟨hst, hc⟩ := h.stopCheck_of_last hs hr
  obtain ⟨he, -⟩ := h.sound hs
  have g := tickAt_rxAgree he ht (rxTick_of_stopBit (s := beginTick s false) he hst hc)
  exact ⟨g.rxState, g.rxFerr, g.rxValid, g.rxSlot⟩

/-- Settles O58: `Hearing` holds from the edge up to the tick of the stop bit, and its level decides how the frame
ends. -/
theorem receivedFrameIsTheSampledLevels : Obligations.ReceivedFrameIsTheSampledLevels := by
  intro s later hs he hi hp hl R h level hlen
  have hR : 2 ≤ R := (enSound_of_en hs.2.2 he).2
  have hear := hearing_ticksFor hs he hi hp hl hlen
  refine ⟨fun n u hn hu => ?_, ?_⟩
  · cases n with
    | zero => cases hu; exact ⟨rfl, rfl, rfl⟩
    | succ n =>
      obtain ⟨t, ht, -, -, hsame⟩ := hear n hn
      cases hu.symm.trans ht
      exact ⟨hsame.rxSlot, hsame.rxValid, hsame.rxFerr⟩
  · obtain ⟨u, hu, ⟨hsu, hrec, hline, hclk⟩, hd, hsame⟩ := hear (11 * R + h - 1) (by omega)
    rw [Nat.sub_add_cancel (by omega)] at hu
    rw [hd] at hclk hrec
    have hrem : rxRemaining u = 1 := by omega
    have hx : nextLevel u = level (11 * R + h) := nextLevel_of_line hline (by omega)
    obtain ⟨t, ht⟩ := tickAt_total hsu (nextLevel u)
    refine ⟨t, by rw [ticksFor_succ, hu, andThen_next, tick, ht], fun hhigh => ?_, fun hlow => ?_⟩
    · rw [hx, hhigh] at ht
      obtain ⟨hst, hv, hf, hbits⟩ := hrec.tickAt_stopHigh hsu hrem ht
      exact ⟨hst, hv, hf.trans hsame.rxFerr, hbits⟩
    · rw [hx, hlow] at ht
      obtain ⟨hst, hf, hv, hsl⟩ := hrec.tickAt_stopLow hsu hrem ht
      exact ⟨hst, hf, hv.trans hsame.rxValid, hsl.trans hsame.rxSlot⟩

end Sys2Proof.Machine

/-! # Host driver: the codecs, `receive`, `configure`, the sends (`43_host_driver.md`)

The codecs are read off the bits of a frame. What falls between two accesses of a call is handled once, by an induction
over the lull: `receive` needs of it that it comes to an end and takes no frame away, `configure` that it leaves the
registers of a disabled unit alone. -/

namespace Sys2Proof.Machine

variable {s t u b : State} {d : Driver} {c : Reg}

/-! ### The codecs (R210 to R216, R232) -/

/-- The parity of the number of ones is their exclusive-or. -/
theorem sum_toNat_mod_two (f : Nat → Bool) : ∀ (l : List Nat) (acc : Bool),
    ((l.map fun k => (f k).toNat).sum + acc.toNat) % 2 = (l.foldl (fun acc k => acc ^^ f k) acc).toNat
  | [], acc => by cases acc <;> rfl
  | k :: l, acc => by
    rw [List.foldl_cons, ← sum_toNat_mod_two f l, List.map_cons, List.sum_cons]
    cases f k <;> cases acc <;> simp <;> omega

theorem ones_mod_two (p : Payload) :
    ((List.range 9).map fun k => (p.getLsbD k).toNat).sum % 2 = (xorReduce p).toNat :=
  sum_toNat_mod_two p.getLsbD (List.range 9) false

/-- The bit that mends a count to odd, and the one that mends it to even. -/
theorem add_parity_mod_two {n : Nat} {x : Bool} (h : n % 2 = x.toNat) :
    (n + (!x).toNat) % 2 = 1 ∧ (n + x.toNat) % 2 = 0 := by
  cases x <;> simp at h ⊢ <;> omega

/-- Settles O7: the ones of the payload have the parity `xor_reduce` says, and the parity bit mends it. -/
theorem parityMakesTheCountOddOrEven : Obligations.ParityMakesTheCountOddOrEven := by
  intro p ones x
  have hx : xorReduce p = x := by simp [xorReduce, List.range_succ, x]
  have hones : ones % 2 = x.toNat := hx ▸ ones_mod_two p
  obtain ⟨hsumOdd, hsumEven⟩ := add_parity_mod_two hones
  have hodd : parityBit .odd p = !x := by simp [parityBit, hx]
  have heven : parityBit .even p = x := by simp [parityBit, hx]
  rw [hodd, heven]
  exact ⟨(Bool.true_xor x).symm, (Bool.false_xor x).symm, hsumOdd, hsumEven, rfl, rfl, fun w => rfl⟩

theorem rawPayload_frameWordOf (p : Payload) (b : Bool) : rawPayload (frameWordOf p b) = p := by
  refine BitVec.eq_of_getLsbD_eq fun k hk => ?_
  simp [rawPayload, getLsbD_frameWordOf, hk]

theorem rawParity_frameWordOf (p : Payload) (b : Bool) : rawParity (frameWordOf p b) = b :=
  getLsbD_frameWordOf p b 9

theorem frameOf_payloadOf (a : Bool) (d : Byte) : frameOf (payloadOf a d) = { isAddress := a, data := d } := by
  have hd : (payloadOf a d).extractLsb' 1 8 = d := by
    refine BitVec.eq_of_getLsbD_eq fun k hk => ?_
    simp [getLsbD_payloadOf, hk]
  rw [frameOf, getLsbD_payloadOf, if_pos rfl, hd]

/-- A frame word with the mode's own parity bit passes the check of that mode (R213, R216). -/
theorem decodeFrame_frameWordOf (mode : ParityMode) (p : Payload) :
    decodeFrame mode (frameWordOf p (parityBit mode p)) = some (frameOf p) := by
  cases mode <;> simp [decodeFrame, parityGood, rawPayload_frameWordOf, rawParity_frameWordOf]

theorem maskData_mod (n : Nat) : maskData (n % 256) = maskData n := BitVec.eq_of_toNat_eq (by simp [maskData])

/-- Settles O8: the raw frame is taken apart into what it was put together from. -/
theorem driverDecodesWhatItEncodes : Obligations.DriverDecodesWhatItEncodes := by
  intro mode a n
  have hmask : BitVec.ofNat 8 (n % 256) = maskData n := maskData_mod n
  rw [hmask, encodeFrame, decodeFrame_frameWordOf, frameOf_payloadOf]

theorem frameWordOf_lt (p : Payload) (b : Bool) : (frameWordOf p b).toNat < 1024 := by
  refine Nat.lt_pow_two_of_testBit (n := 10) _ fun k hk => ?_
  rw [BitVec.testBit_toNat, getLsbD_frameWordOf, if_neg (by omega), decide_eq_false (by omega), Bool.false_and]

theorem encodeFrame_lt (mode : ParityMode) (a : Bool) (n : Nat) : (encodeFrame mode a n).toNat < 1024 :=
  frameWordOf_lt _ _

/-- Settles O9: a frame word has ten bits, and the data argument enters it through its mask alone. -/
theorem driverWordsAreNeverMalformed : Obligations.DriverWordsAreNeverMalformed := by
  refine fun mode a n => ⟨encodeFrame_lt mode a n, ?_, ?_⟩
  · rw [txWordOk_eq, decide_eq_true (encodeFrame_lt mode a n)]
  · rw [encodeFrame, encodeFrame, maskData_mod]

/-! ### What falls between two accesses (R66, R299) -/

/-- By induction on the lull: what a tick keeps, with a next state, and a reset keeps, a lull keeps, with a next
state. -/
theorem exists_runLull {P : State → Prop} (htick : ∀ s, P s → ∃ t, tick s = .next t ∧ P t) :
    ∀ {l : List Lull} {s : State}, (Lull.reset ∈ l → ∀ s, P s → P (resetStep s)) → P s →
      ∃ t, runLull l s = .next t ∧ P t
  | [], s, _, h => ⟨s, rfl, h⟩
  | .tick :: l, s, hreset, h => by
    obtain ⟨u, hu, hPu⟩ := htick s h
    obtain ⟨t, ht, hPt⟩ := exists_runLull htick (fun hm => hreset (.tail _ hm)) hPu
    exact ⟨t, by rw [runLull, hu, andThen_next, ht], hPt⟩
  | .reset :: l, s, hreset, h =>
    exists_runLull (l := l) htick (fun hm => hreset (.tail _ hm)) (hreset (.head l) s h)

/-- The same of what is listed before the next access, for a property that does not speak of the list. -/
theorem exists_elapse {P : State → Prop} (htick : ∀ s, P s → ∃ t, tick s = .next t ∧ P t)
    (hreset : (∃ g ∈ s.gaps, Lull.reset ∈ g) → ∀ s, P s → P (resetStep s))
    (hgaps : ∀ rest, P { s with gaps := rest }) : ∃ t, elapse s = .next t ∧ P t := by
  unfold elapse
  split
  next => exact ⟨s, rfl, hgaps s.gaps⟩
  next g rest hg => exact exists_runLull htick (fun hm => hreset ⟨g, by simp [hg], hm⟩) (hgaps rest)

theorem tick_of_sound (h : s.Sound) : ∃ t, tick s = .next t ∧ t.Sound := by
  obtain ⟨t, ht⟩ := tickAt_total h (nextLevel s)
  exact ⟨t, ht, tickAt_sound h ht⟩

/-- From a sound state what falls before an access has a next state, resets included. -/
theorem elapse_total (h : s.Sound) : ∃ t, elapse s = .next t := by
  obtain ⟨t, ht, -⟩ := exists_elapse (P := State.Sound) (fun _ => tick_of_sound)
    (fun _ _ h => kept_sound.reset h) (fun _ => h)
  exact ⟨t, ht⟩

/-- No row of R190 takes a delivered frame away. -/
theorem rxTick_rxValid (h : rxTick s = .next t) (hv : s.rxValid = true) : t.rxValid = true := by
  rcases (rxTick_cases h).2 with ⟨-, -, -, rfl⟩ | ⟨-, -, rfl⟩ | ⟨-, -, rfl⟩ | ⟨-, -, rfl⟩ | ⟨-, -, rfl⟩ |
    ⟨-, -, -, rfl⟩ | ⟨-, -, -, rfl⟩ | ⟨-, -, rfl⟩ | ⟨-, -, rfl⟩ <;> simp [hv]

theorem tickAt_rxValid {x : Bool} (h : tickAt x s = .next t) (hv : s.rxValid = true) : t.rxValid = true := by
  obtain ⟨v, rfl, ⟨-, u, hu, hv'⟩ | ⟨-, rfl⟩⟩ := tickAt_cases h
  · exact rxTick_rxValid (t := v) hv' ((txTick_writesOnlyTx hu).rxAgree.rxValid.trans hv)
  · exact hv

/-- Where only ticks fall, a delivered frame is there when `RXDATA` is read. -/
theorem elapse_rxValid (h : s.Sound) (hv : s.rxValid = true) (hg : ∀ g ∈ s.gaps, Lull.reset ∉ g)
    (ht : elapse s = .next t) : t.rxValid = true := by
  obtain ⟨t', ht', -, hv'⟩ := exists_elapse (P := fun s => s.Sound ∧ s.rxValid = true)
    (fun s ⟨hs, hv⟩ => by
      obtain ⟨t, ht, hst⟩ := tick_of_sound hs
      exact ⟨t, ht, hst, tickAt_rxValid ht hv⟩)
    (fun ⟨g, hm, hr⟩ => absurd hr (hg g hm)) (fun _ => ⟨h, hv⟩)
  cases ht.symm.trans ht'
  exact hv'

theorem nextAccess_of_elapse (h : elapse s = .next u) (f : State → Result) : nextAccess f s = f u := by
  rw [nextAccess, h, andThen_next]

theorem elapse_of_gaps_nil (h : s.gaps = []) : elapse s = .next s := by simp only [elapse, h]

/-! ### `receive` (R222 to R228) -/

/-- The polling form reports the record of its one poll. -/
theorem exec_receive_of_poll (h : pollReceiver s = .next t) : exec .receive s = .next (reportResult t) := by
  change execReceive s = _
  rw [execReceive, h, andThen_next]

/-- The state after the read of `STATUS` with which a poll begins. -/
abbrev polled (s : State) : State := returnRead s (statusWord s)

/-- A latched framing error is cleared and recorded, and no frame is looked for (R226). -/
theorem pollReceiver_of_rxFerr (hd : s.driver = some d) (hf : s.rxFerr = true) (hu : elapse (polled s) = .next u) :
    pollReceiver s = .next (raiseDriverError (acceptWrite (clearFerr u)) d) := by
  rw [pollReceiver_eq hd, if_pos hf, nextAccess_of_elapse hu, execWrStatus_of_ok (by decide)]
  rfl

/-- A frame seen in `STATUS` is read after what falls then (R222). -/
theorem pollReceiver_of_rxValid (hd : s.driver = some d) (hf : s.rxFerr = false) (hv : s.rxValid = true)
    (hu : elapse (polled s) = .next u) :
    pollReceiver s = andThen (execRdRxdata u) fun t => .next (acceptFrame d t.readValue t) := by
  rw [pollReceiver_eq hd, hf, if_neg Bool.false_ne_true, if_pos hv, nextAccess_of_elapse hu]

theorem pollReceiver_of_neither (hd : s.driver = some d) (hf : s.rxFerr = false) (hv : s.rxValid = false) :
    pollReceiver s = .next (returnNothing (polled s)) := by
  rw [pollReceiver_eq hd, hf, if_neg Bool.false_ne_true, hv, if_neg Bool.false_ne_true]

/-- The slot is read as what fell before left it, and what it holds is acted on. -/
theorem exec_receive_of_slot (hd : s.driver = some d) (hf : s.rxFerr = false) (hv : s.rxValid = true)
    (hu : elapse (polled s) = .next u) (huv : u.rxValid = true) :
    exec .receive s = .next (reportResult
      (acceptFrame d (u.rxSlot.setWidth 16) (popSlot (returnRead u (u.rxSlot.setWidth 16))))) := by
  refine exec_receive_of_poll ?_
  rw [pollReceiver_of_rxValid hd hf hv hu, execRdRxdata, if_pos huv, andThen_next]
  rfl

/-- A frame that a reset took away is read as a free value (log entry 4). -/
theorem exec_receive_of_emptied (hd : s.driver = some d) (hf : s.rxFerr = false) (hv : s.rxValid = true)
    (hu : elapse (polled s) = .next u) (huv : u.rxValid = false) :
    exec .receive s = .next (reportResult (acceptFrame d (Config.anyBits u.ident 16 u.draws) (returnAny u))) := by
  refine exec_receive_of_poll ?_
  rw [pollReceiver_of_rxValid hd hf hv hu, execRdRxdata, if_neg (by simp [huv]), andThen_next]
  rfl

/-- The raw frame in the slot, taken apart as the statements write it. -/
theorem rawPayload_setWidth (w : FrameWord) : rawPayload (w.setWidth 16) = w.extractLsb' 0 9 := by
  refine BitVec.eq_of_getLsbD_eq fun k hk => ?_
  simp [rawPayload, hk, show k < 16 by omega]

theorem parityGood_setWidth_iff (mode : ParityMode) (w : FrameWord) :
    parityGood mode (w.setWidth 16) = true ↔
      mode = .noParity ∨ w.getLsbD 9 = parityBit mode (w.extractLsb' 0 9) := by
  have hp : rawParity (w.setWidth 16) = w.getLsbD 9 := by simp [rawParity]
  cases mode <;> simp [parityGood, rawPayload_setWidth, hp]

theorem frameOf_rawPayload_setWidth (w : FrameWord) :
    frameOf (rawPayload (w.setWidth 16)) = { isAddress := w.getLsbD 0, data := w.extractLsb' 1 8 } := by
  have hd : (w.extractLsb' 0 9).extractLsb' 1 8 = w.extractLsb' 1 8 := by
    refine BitVec.eq_of_getLsbD_eq fun k hk => ?_
    simp [hk]
  rw [rawPayload_setWidth, frameOf, hd]
  simp

theorem decodeFrame_of_good {mode : ParityMode} {w : FrameWord}
    (h : mode = .noParity ∨ w.getLsbD 9 = parityBit mode (w.extractLsb' 0 9)) :
    decodeFrame mode (w.setWidth 16) = some { isAddress := w.getLsbD 0, data := w.extractLsb' 1 8 } := by
  rw [decodeFrame, if_pos ((parityGood_setWidth_iff mode w).mpr h), frameOf_rawPayload_setWidth]

theorem decodeFrame_of_bad {mode : ParityMode} {w : FrameWord} (hm : mode ≠ .noParity)
    (h : w.getLsbD 9 ≠ parityBit mode (w.extractLsb' 0 9)) : decodeFrame mode (w.setWidth 16) = none := by
  rw [decodeFrame, if_neg fun hg => ((parityGood_setWidth_iff mode w).mp hg).elim hm h]

/-- Settles O44: `STATUS` is read first, and its bit 2 is looked at before its bit 1. -/
theorem receiveReportsTheFramingErrorFirst : Obligations.ReceiveReportsTheFramingErrorFirst := by
  intro s r d hd hr failed empty
  obtain rfl : polled s = r := Host.Outcome.next.inj hr
  have hfailed : s.rxFerr = true → ∀ u, elapse (polled s) = .next u → exec .receive s = .next { u with
      rxFerr := false, driver := some { d with lastError := true }, result := failed,
      trace := .record failed :: .accepted :: u.trace } := fun hf u hu => by
    rw [exec_receive_of_poll (pollReceiver_of_rxFerr hd hf hu)]
    simp only [reportResult, raiseDriverError, returnResult, setDriver, acceptWrite, clearFerr, failed]
  refine ⟨hfailed, fun hf hg => hfailed hf _ (elapse_of_gaps_nil hg), fun hf hv => ?_⟩
  rw [exec_receive_of_poll (pollReceiver_of_neither hd hf hv)]
  simp only [reportResult, returnNothing, returnResult, empty]

/-- Settles O45: the slot holds an address frame that passes the check, and the filter takes its answer from it. -/
theorem receiveAddressFrameSetsListening : Obligations.ReceiveAddressFrameSetsListening := by
  intro s r u d hd hf hv hr hu huv hgood haddr record
  obtain rfl : polled s = r := Host.Outcome.next.inj hr
  rw [exec_receive_of_slot hd hf hv hu huv, acceptFrame, decodeFrame_of_good hgood, haddr]
  simp only [reportResult, returnFrame, returnResult, setDriver, popSlot, returnRead, record, if_pos]
  rfl

/-- Settles O46: the slot holds a data frame that passes the check, and `listening` alone decides what is returned. -/
theorem receiveDataFrameNeedsListening : Obligations.ReceiveDataFrameNeedsListening := by
  intro s r u d hd hf hv hr hu huv hgood hdata record
  obtain rfl : polled s = r := Host.Outcome.next.inj hr
  rw [exec_receive_of_slot hd hf hv hu huv, acceptFrame, decodeFrame_of_good hgood, hdata]
  cases hl : d.listening
  · simp [reportResult, returnNothing, returnResult, setDriver, popSlot, returnRead, record, hl]
  · simp [reportResult, returnFrame, returnResult, setDriver, popSlot, returnRead, record, hl]

/-- Settles O47: the check fails before the flag of the frame is looked at. -/
theorem receiveParityErrorDiscards : Obligations.ReceiveParityErrorDiscards := by
  intro s r u d hd hf hv hr hu huv hm hbad record
  obtain rfl : polled s = r := Host.Outcome.next.inj hr
  rw [exec_receive_of_slot hd hf hv hu huv, acceptFrame, decodeFrame_of_bad hm hbad]
  simp only [reportResult, raiseDriverError, returnResult, setDriver, popSlot, returnRead, record]

/-- Settles O48: what falls between the accesses of a sound unit comes to an end, only a reset takes the frame away, and
the call acts on what is left. -/
theorem receiveIsCorrectUnderTicks : Obligations.ReceiveIsCorrectUnderTicks := by
  intro s d hs hd
  have hpolled : (polled s).Sound := kept_sound.read _ hs
  obtain ⟨u, hu⟩ := elapse_total hpolled
  obtain ⟨hfailed, -, hnothing⟩ := receiveReportsTheFramingErrorFirst s (polled s) d hd rfl
  refine ⟨fun hf => ⟨u, hu, hfailed hf u hu⟩, fun hf hv => ⟨u, hu, ?_, fun huv => ?_, fun huv => ?_⟩, hnothing⟩
  · exact fun hg => elapse_rxValid hpolled hv hg hu
  · exact ⟨_, rfl, exec_receive_of_slot hd hf hv hu huv⟩
  · exact ⟨_, _, rfl, exec_receive_of_emptied hd hf hv hu huv⟩

/-! ### `configure` (R218): its arguments -/

theorem exists_parityModeOf {code : BitVec 2} (h : code ≠ 3#2) : ∃ m, parityModeOf code = some m := by
  have all : ∀ code : BitVec 2, code ≠ 3#2 → (parityModeOf code).isSome := by decide
  exact Option.isSome_iff_exists.mp (all code h)

section
variable {baud : Nat} {code : BitVec 2} {own : Byte} {m : ParityMode}

theorem exec_configure_of_bad (h : code = 3#2 ∨ baud = 0) :
    exec (.configure baud code own) s = .refused .badConfigureArgument := by
  change execConfigure baud code own s = _
  unfold execConfigure
  split
  next => rfl
  next m hm =>
    rcases h with rfl | h
    · cases hm
    · rw [if_pos h]

theorem exec_configure_of_range (hm : parityModeOf code = some m) (hb : baud ≠ 0)
    (h : s.clockHz / baud < 2 ∨ 65535 < s.clockHz / baud) :
    exec (.configure baud code own) s = .refused .baudOutOfRange := by
  change execConfigure baud code own s = _
  simp only [execConfigure, hm, if_neg hb]
  exact if_pos h

/-- With good arguments `configure` is its accesses and then a new driver. -/
theorem exec_configure_of_good (hm : parityModeOf code = some m) (hb : baud ≠ 0) (hmin : 2 ≤ s.clockHz / baud)
    (hmax : s.clockHz / baud ≤ 65535) :
    exec (.configure baud code own) s =
      andThen (configureAccesses (BitVec.ofNat 16 (s.clockHz / baud)) s) fun t =>
        .next (setDriver t (freshDriver m own (BitVec.ofNat 16 (s.clockHz / baud)))) := by
  have hrange : ¬(cyclesPerBit s.clockHz baud < Config.divMin ∨ Config.divMax < cyclesPerBit s.clockHz baud) :=
    fun h => h.elim hmin.not_gt hmax.not_gt
  change execConfigure baud code own s = _
  simp only [execConfigure, hm, if_neg hb, if_neg hrange]
  rfl

end

/-! ### The accesses of `configure` on a disabled unit (R218, R66) -/

/-- Bit 0 of `CTRL` is `EN` (R238). -/
theorem getLsbD_ctrlWord (s : State) : (ctrlWord s).getLsbD 0 = s.en := by
  rw [ctrlWord_eq_ite]
  cases s.en <;> rfl

/-- `s` without what reads and, with `EN = 0`, ticks leave: `rx_prev`, the line, the list of gaps, and what has been
observed. -/
def registers (s : State) : State :=
  { s with rxPrev := false, rxIn := false, line := [], ticks := 0, gaps := [], readValue := 0#16, trace := [] }

theorem eq_of_registers (h : registers u = registers b) :
    u = { b with
      rxPrev := u.rxPrev, rxIn := u.rxIn, line := u.line, ticks := u.ticks, gaps := u.gaps, readValue := u.readValue,
      trace := u.trace } :=
  congrArg (fun v : State => { v with
    rxPrev := u.rxPrev, rxIn := u.rxIn, line := u.line, ticks := u.ticks, gaps := u.gaps, readValue := u.readValue,
    trace := u.trace }) h

/-- `TXDIV <- v` (R129). -/
def setTxDiv (s : State) (v : Reg) : State := { s with txDiv := v }

/-- `RXDIV <- v` (R131). -/
def setRxDiv (s : State) (v : Reg) : State := { s with rxDiv := v }

/-- `u` holds the registers of `b`, no reset is to fall before an access, and where nothing is listed to fall nothing
has fallen. -/
structure Waited (b u : State) : Prop where
  regs : registers u = registers b
  noReset : ∀ g ∈ u.gaps, Lull.reset ∉ g
  ungapped : b.gaps = [] → u.gaps = [] ∧ u.rxIn = b.rxIn ∧ u.line = b.line ∧ u.ticks = b.ticks

namespace Waited

theorem refl (hg : ∀ g ∈ s.gaps, Lull.reset ∉ g) : Waited s s := ⟨rfl, hg, fun h => ⟨h, rfl, rfl, rfl⟩⟩

theorem en (h : Waited b u) : u.en = b.en := (congrArg State.en h.regs :)
theorem txDiv (h : Waited b u) : u.txDiv = b.txDiv := (congrArg State.txDiv h.regs :)
theorem rxDiv (h : Waited b u) : u.rxDiv = b.rxDiv := (congrArg State.rxDiv h.regs :)
theorem txOut (h : Waited b u) : u.txOut = b.txOut := (congrArg State.txOut h.regs :)
theorem txFull (h : Waited b u) : u.txFull = b.txFull := (congrArg State.txFull h.regs :)
theorem rxState (h : Waited b u) : u.rxState = b.rxState := (congrArg State.rxState h.regs :)
theorem rxValid (h : Waited b u) : u.rxValid = b.rxValid := (congrArg State.rxValid h.regs :)
theorem rxFerr (h : Waited b u) : u.rxFerr = b.rxFerr := (congrArg State.rxFerr h.regs :)

theorem tick (h : Waited b u) (he : b.en = false) (hb : b.gaps ≠ []) : ∃ t, tick u = .next t ∧ Waited b t :=
  ⟨_, tickAt_of_disabled (nextLevel u) (h.en.trans he), h.regs, h.noReset, fun hnil => absurd hnil hb⟩

theorem elapse (h : Waited b u) (he : b.en = false) : ∃ t, elapse u = .next t ∧ Waited b t := by
  cases hg : u.gaps with
  | nil => exact ⟨u, elapse_of_gaps_nil hg, h⟩
  | cons g rest =>
    have hb : b.gaps ≠ [] := fun hnil => by simp [(h.ungapped hnil).1] at hg
    have hno := h.noReset
    rw [hg] at hno
    have hpop : Waited b { u with gaps := rest } :=
      ⟨h.regs, fun g' hm => hno g' (.tail _ hm), fun hnil => absurd hnil hb⟩
    simp only [Machine.elapse, hg]
    exact exists_runLull (fun v hv => hv.tick he hb) (fun hm => absurd hm (hno g (.head _))) hpop

/-- A later access finds the registers as the one before it left them. -/
theorem nextAccess (h : Waited b u) (he : b.en = false) (f : State → Result) :
    ∃ v, nextAccess f u = f v ∧ Waited b v := by
  obtain ⟨v, hv, h'⟩ := h.elapse he
  exact ⟨v, nextAccess_of_elapse hv f, h'⟩

theorem read (h : Waited b u) (v : Reg) : Waited b (returnRead u v) := { h with }

theorem wrTxdiv (h : Waited b u) (he : b.en = false) (c : Reg) :
    ∃ t, Machine.nextAccess (execWrTxdiv c) u = .next t ∧ Waited (setTxDiv b c) t := by
  obtain ⟨v, hv, h⟩ := h.nextAccess he (execWrTxdiv c)
  exact ⟨_, hv.trans (execWrTxdiv_of_disabled (h.en.trans he) c),
    { h with regs := congrArg (setTxDiv · c) h.regs }⟩

theorem wrRxdiv (h : Waited b u) (he : b.en = false) (c : Reg) :
    ∃ t, Machine.nextAccess (execWrRxdiv c) u = .next t ∧ Waited (setRxDiv b c) t := by
  obtain ⟨v, hv, h⟩ := h.nextAccess he (execWrRxdiv c)
  exact ⟨_, hv.trans (execWrRxdiv_of_disabled (h.en.trans he) c),
    { h with regs := congrArg (setRxDiv · c) h.regs }⟩

/-- The read of `STATUS` shows whether a frame waits. -/
theorem rdStatus (h : Waited b u) (he : b.en = false) :
    ∃ t, Machine.nextAccess execRdStatus u = .next t ∧ Waited b t ∧ t.readValue.getLsbD 1 = b.rxValid := by
  obtain ⟨v, hv, h⟩ := h.nextAccess he execRdStatus
  exact ⟨_, hv, h.read _, (statusWord_flags v).1.trans h.rxValid⟩

/-- A frame that waits is read and dropped. -/
theorem dropFrame (h : Waited b u) (he : b.en = false) (hr : u.readValue.getLsbD 1 = b.rxValid) :
    ∃ t, (if u.readValue.getLsbD 1 then Machine.nextAccess execRdRxdata u else .next u) = .next t ∧
      Waited (popSlot b) t := by
  rw [hr]
  cases hb : b.rxValid with
  | false =>
    have hpop : popSlot b = b := by rw [popSlot, ← hb]
    exact ⟨u, rfl, by rw [hpop]; exact h⟩
  | true =>
    obtain ⟨v, hv, h⟩ := h.nextAccess he execRdRxdata
    exact ⟨_, hv.trans (if_pos (h.rxValid.trans hb)), { h with regs := congrArg popSlot h.regs }⟩

theorem wrStatus (h : Waited b u) (he : b.en = false) :
    ∃ t, Machine.nextAccess (execWrStatus 0x0004#16) u = .next t ∧ Waited (clearFerr b) t := by
  obtain ⟨v, hv, h⟩ := h.nextAccess he (execWrStatus 0x0004#16)
  exact ⟨_, hv.trans (execWrStatus_of_ok (by decide) v), { h with regs := congrArg clearFerr h.regs }⟩

theorem enable (h : Waited b u) (he : b.en = false) (hd : divisorsLegal b = true) :
    ∃ t, Machine.nextAccess (execWrCtrl 0x0001#16) u = .next t ∧ Waited (setEn b) t := by
  obtain ⟨v, hv, h⟩ := h.nextAccess he (execWrCtrl 0x0001#16)
  have hd' : divisorsLegal v = true := (congrArg divisorsLegal h.regs).trans hd
  have hok : execWrCtrl 0x0001#16 v = .next (acceptWrite (setEn v)) := by
    simp [execWrCtrl, ctrlWriteOk, h.en, he, hd']
  exact ⟨_, hv.trans hok, { h with regs := congrArg setEn h.regs }⟩

end Waited

theorem engineIdle_eq_true : engineIdle s = true ↔ s.txFull = false ∧ s.rxState = .idle := by
  simp [engineIdle, rxBusy]

/-- Clearing `EN`: done where both engines rest, refused where one is at work (R239). -/
theorem execWrCtrl_zero_of_en (he : s.en = true) :
    execWrCtrl 0x0000#16 s =
      if engineIdle s then .next (acceptWrite (clearEn s)) else .refused .configChangeInFlight := by
  cases hi : engineIdle s <;> simp [execWrCtrl, ctrlWriteOk, he, hi]

/-- The first accesses of `configure`: an enabled unit is disabled (R218). -/
def disableAccesses (s : State) : Result :=
  andThen (execRdCtrl s) fun s =>
    if s.readValue.getLsbD 0 then nextAccess (execWrCtrl 0x0000#16) s else .next s

/-- The accesses that follow: the divisors, a stale frame, a stale error, the enable (R218). -/
def setupAccesses (c : Reg) (s : State) : Result :=
  andThen (nextAccess (execWrTxdiv c) s) fun s =>
  andThen (nextAccess (execWrRxdiv c) s) fun s =>
  andThen (nextAccess execRdStatus s) fun s =>
  andThen (if s.readValue.getLsbD 1 then nextAccess execRdRxdata s else .next s) fun s =>
  andThen (nextAccess (execWrStatus 0x0004#16) s) fun s =>
  nextAccess (execWrCtrl 0x0001#16) s

theorem configureAccesses_eq (c : Reg) (s : State) :
    configureAccesses c s = andThen (disableAccesses s) (setupAccesses c) := by
  rw [disableAccesses, andThen_assoc]
  rfl

theorem disableAccesses_eq (s : State) :
    disableAccesses s = if s.en then nextAccess (execWrCtrl 0x0000#16) (returnRead s (ctrlWord s))
      else .next (returnRead s (ctrlWord s)) := by
  rw [disableAccesses, execRdCtrl, andThen_next, returnRead_readValue, getLsbD_ctrlWord]

/-- Where nothing is to fall in between, an enabled unit is disabled at rest, and the call is refused while it is at
work. -/
theorem disableAccesses_of_enabled (he : s.en = true) (hg : s.gaps = []) :
    disableAccesses s =
      if engineIdle s then .next (acceptWrite (clearEn (returnRead s (ctrlWord s))))
      else .refused .configChangeInFlight := by
  rw [disableAccesses_eq, if_pos he, nextAccess_of_elapse (elapse_of_gaps_nil (s := returnRead s (ctrlWord s)) hg)]
  exact execWrCtrl_zero_of_en (s := returnRead s (ctrlWord s)) he

/-- A unit that is disabled already, or at rest with nothing to fall in between, goes on disabled. -/
theorem disableAccesses_of_idle (hg : ∀ g ∈ s.gaps, Lull.reset ∉ g)
    (h : s.en = false ∨ s.gaps = [] ∧ engineIdle s = true) :
    ∃ t, disableAccesses s = .next t ∧ Waited (clearEn s) t := by
  have hread := (Waited.refl hg).read (ctrlWord s)
  cases he : s.en with
  | false =>
    refine ⟨_, by rw [disableAccesses_eq, he]; rfl, { hread with regs := ?_ }⟩
    rw [hread.regs, registers, registers, clearEn, ← he]
  | true =>
    obtain ⟨hnil, hidle⟩ := h.resolve_left (by simp [he])
    exact ⟨_, (disableAccesses_of_enabled he hnil).trans (if_pos hidle),
      { hread with regs := congrArg clearEn hread.regs }⟩

/-- The unit as the accesses of `configure` leave it, with `c` for both divisors (R218). -/
def configured (s : State) (c : Reg) : State :=
  setEn (clearFerr (popSlot (setRxDiv (setTxDiv (clearEn s) c) c)))

/-- Each access works on the registers the one before it left, whatever ticks fall in between. -/
theorem configureAccesses_of_idle (hc : 2 ≤ c.toNat) (hg : ∀ g ∈ s.gaps, Lull.reset ∉ g)
    (h : s.en = false ∨ s.gaps = [] ∧ engineIdle s = true) :
    ∃ t, configureAccesses c s = .next t ∧ Waited (configured s c) t := by
  obtain ⟨s1, h1, w⟩ := disableAccesses_of_idle hg h
  obtain ⟨s2, h2, w⟩ := w.wrTxdiv rfl c
  obtain ⟨s3, h3, w⟩ := w.wrRxdiv rfl c
  obtain ⟨s4, h4, w, hr⟩ := w.rdStatus rfl
  obtain ⟨s5, h5, w⟩ := w.dropFrame rfl hr
  obtain ⟨s6, h6, w⟩ := w.wrStatus rfl
  obtain ⟨t, h7, w⟩ := w.enable rfl (by simp [divisorsLegal, Config.divMin, setTxDiv, setRxDiv, hc])
  refine ⟨t, ?_, w⟩
  simp only [configureAccesses_eq, setupAccesses, h1, h2, h3, h4, h5, h6, h7, andThen_next]

/-- A quotient in range fits the divisor registers (R122). -/
theorem toNat_divisor {n : Nat} (h : n ≤ 65535) : (BitVec.ofNat 16 n).toNat = n := by
  rw [BitVec.toNat_ofNat, Nat.mod_eq_of_lt (by omega)]

/-- Settles O39: the accesses leave the registers of `configured`, and with no gap listed nothing else has happened. -/
theorem configureInitialisesTheInstance : Obligations.ConfigureInitialisesTheInstance := by
  intro s baud code own mode hcode hb hmin hmax hnil hidle
  have hm : parityModeOf code = some mode := by rcases hcode with ⟨rfl, rfl⟩ | ⟨rfl, rfl⟩ | ⟨rfl, rfl⟩ <;> rfl
  obtain ⟨t, ht, w⟩ := configureAccesses_of_idle ((toNat_divisor hmax).symm ▸ hmin) (by simp [hnil])
    (hidle.imp_right fun h => ⟨hnil, engineIdle_eq_true.mpr h⟩)
  obtain ⟨-, -, -, ⟨seen, hseen⟩, -⟩ := (kept_later s).configureAccesses (Later.refl s) ht
  obtain ⟨hgaps, hin, hline, hticks⟩ := w.ungapped hnil
  refine ⟨t.rxPrev, t.readValue, seen, ?_⟩
  rw [exec_configure_of_good hm hb hmin hmax, ht, andThen_next, eq_of_registers w.regs, hgaps.trans hnil.symm,
    hin, hline, hticks, ← hseen]
  rfl

/-- Settles O40: the accesses leave the registers of `configured`, whatever ticks fall in between. -/
theorem configureCompletesUnderTicks : Obligations.ConfigureCompletesUnderTicks := by
  intro s baud code own mode hm hb hmin hmax he hg
  have hc := toNat_divisor hmax
  obtain ⟨t, ht, w⟩ := configureAccesses_of_idle (hc.symm ▸ hmin) hg (.inl he)
  have hrun := exec_configure_of_good (own := own) hm hb hmin hmax
  rw [ht, andThen_next] at hrun
  exact ⟨_, hrun, w.en, (congrArg BitVec.toNat w.txDiv).trans hc, (congrArg BitVec.toNat w.rxDiv).trans hc, w.rxValid,
    w.rxFerr, rfl, w.txOut, w.rxState, w.txFull⟩

/-- Settles O41: the arguments are tested first, and then the first write, which is to disable the unit. -/
theorem configureRefusesBadArguments : Obligations.ConfigureRefusesBadArguments := by
  refine fun s baud code own => ⟨exec_configure_of_bad, fun hcode hb hrange => ?_,
    fun hcode hb hmin hmax hnil he hbusy => ?_⟩ <;> obtain ⟨m, hm⟩ := exists_parityModeOf hcode
  · exact exec_configure_of_range hm hb hrange
  · have hwork : ¬engineIdle s = true := fun hi => by
      obtain ⟨hf, hr⟩ := engineIdle_eq_true.mp hi
      simp [hf, hr] at hbusy
    rw [exec_configure_of_good hm hb hmin hmax, configureAccesses_eq, disableAccesses_of_enabled he hnil, if_neg hwork]
    rfl

/-! ### The other operations (R215, R219 to R221, R229) -/

/-- A send writes the word of its flag and its masked data. -/
theorem sendFrame_eq (hd : s.driver = some d) (a : Bool) (n : Nat) :
    sendFrame a n s = execWrTxdata (encodeFrame d.parityMode a n) s := by
  simp only [sendFrame, hd]

/-- Settles O42: each send is `sendFrame`, and its word is one that `WR TXDATA` accepts or holds. -/
theorem sendsWriteOneWord : Obligations.SendsWriteOneWord := by
  intro s d a n hd he payload word filled waiting
  have hempty : s.txFull = false → ∀ a, sendFrame a n s = .next (filled a) := fun hf a => by
    rw [sendFrame_eq hd, execWrTxdata_of_empty he (encodeFrame_lt _ a n) hf, acceptWord_eq]
    rfl
  have hfull : s.txFull = true → ∀ a, sendFrame a n s = .next (waiting a) := fun hf a => by
    rw [sendFrame_eq hd, execWrTxdata_of_full he (encodeFrame_lt _ a n) hf]
    rfl
  exact ⟨fun hf => ⟨hempty hf a, hempty hf true, hempty hf false⟩,
    fun hf => ⟨hfull hf a, hfull hf true, hfull hf false⟩, rfl, rfl⟩

theorem sendFrame_of_no_driver (hd : s.driver = none) (a : Bool) (n : Nat) :
    sendFrame a n s = .refused .notConfigured := by
  simp only [sendFrame, hd]

theorem exec_receive_of_no_driver (hd : s.driver = none) : exec .receive s = .refused .notConfigured := by
  change execReceive s = _
  simp only [execReceive, pollReceiver, hd, andThen_refused]

/-- Settles O43: the sends and the poll both look for the driver first. -/
theorem callsBeforeConfigureAreRefused : Obligations.CallsBeforeConfigureAreRefused := fun _ a n hd =>
  ⟨sendFrame_of_no_driver hd a n, sendFrame_of_no_driver hd true n, sendFrame_of_no_driver hd false n,
    exec_receive_of_no_driver hd⟩

/-- The step of a blocking `receive` is its poll and what the record of the poll decides. -/
theorem step_of_await {rest : List Event} (hh : s.held = none) (hs : s.script = .await :: rest)
    (hp : pollReceiver { s with script := rest } = .next t) :
    step s = if t.result.valid || t.result.error then .next (reportResult t)
      else .next { t with script := betweenPolls t ++ Event.await :: t.script, gaps := t.gaps.tail } := by
  have hstep : step s = awaitFrame s rest := by simp only [step, turn, hh, scriptTurn, hs]
  rw [hstep, awaitFrame, hp, andThen_next]

/-- Settles O37: the record decides whether the call is over, and `gaps` what falls before the next poll. -/
theorem blockingReceivePollsAgain : Obligations.BlockingReceivePollsAgain := by
  intro s t rest hh hs hp
  have hstep := step_of_await hh hs hp
  refine ⟨fun hevent => ?_, fun hv he => ?_⟩
  · rw [if_pos (by simpa using hevent)] at hstep
    exact ⟨hstep, hstep.trans (exec_receive_of_poll hp).symm⟩
  · rw [if_neg (by simp [hv, he])] at hstep
    rw [hstep]
    refine ⟨fun hg => ?_, fun g more hg => ?_⟩
    · simp [betweenPolls, hg]
    · simp [betweenPolls, hg]

end Sys2Proof.Machine

/-! # Control and status: the flags as read, and the writes of `STATUS` and `CTRL` (`44_control_status.md`)

The reserved bits of both registers are the high part of the value, so one lemma bounds either value. What each write
answers is then stated by the tests of its own pseudocode. -/

namespace Sys2Proof.Machine

variable {s : State} {v : Reg}

/-! ### `STATUS` as read (R236) -/

/-- Each bit of `STATUS` in its place; the two that `receive` tests are also `statusWord_flags`. -/
theorem getLsbD_statusWord (s : State) (k : Nat) :
    (statusWord s).getLsbD k =
      if k = 0 then s.txFull else if k = 1 then s.rxValid else if k = 2 then s.rxFerr
      else if k = 3 then rxBusy s else false := by
  simp only [statusWord, BitVec.getLsbD_setWidth, BitVec.getLsbD_append]
  match k with
  | 0 | 1 | 2 | 3 => simp
  | k + 4 => simp

theorem rxBusy_eq_decide (s : State) : rxBusy s = decide (s.rxState ≠ .idle) := by
  rw [rxBusy, Bool.eq_iff_iff, bne_iff_ne, decide_eq_true_iff]

/-- Settles O11: the value is `statusWord`, whose bits `getLsbD_statusWord` gives. -/
theorem statusReadGivesTheFlags : Obligations.StatusReadGivesTheFlags := by
  refine fun s => ⟨statusWord s, rfl, getLsbD_statusWord s 0, getLsbD_statusWord s 1, getLsbD_statusWord s 2,
    (getLsbD_statusWord s 3).trans (rxBusy_eq_decide s), fun k hk => ?_⟩
  rw [getLsbD_statusWord, if_neg (by omega), if_neg (by omega), if_neg (by omega), if_neg (by omega)]

/-! ### Reserved bits (R244) -/

/-- The bits from place `n` up are all 0 exactly in a value below `2 ^ n`. -/
theorem extractLsb'_high_eq_zero {w n k : Nat} (x : BitVec w) (h : w ≤ n + k) :
    x.extractLsb' n k = 0#k ↔ x.toNat < 2 ^ n := by
  have hx : x.toNat / 2 ^ n < 2 ^ k := by
    rw [Nat.div_lt_iff_lt_mul (by positivity), Nat.mul_comm, ← Nat.pow_add]
    exact x.isLt.trans_le (Nat.pow_le_pow_right (by decide) h)
  rw [← BitVec.toNat_inj, BitVec.extractLsb'_toNat, Nat.shiftRight_eq_div_pow, Nat.mod_eq_of_lt hx,
    BitVec.toNat_ofNat, Nat.zero_mod, Nat.div_eq_zero_iff_lt (by positivity)]

theorem statusWriteOk_eq (v : Reg) : statusWriteOk v = decide (v.toNat < 16) := by
  rw [statusWriteOk, Bool.eq_iff_iff, beq_iff_eq, decide_eq_true_iff]
  exact extractLsb'_high_eq_zero v (by decide)

theorem ctrlWriteOk_eq (v : Reg) : ctrlWriteOk v = decide (v.toNat < 2) := by
  rw [ctrlWriteOk, Bool.eq_iff_iff, beq_iff_eq, decide_eq_true_iff]
  exact extractLsb'_high_eq_zero v (by decide)

/-! ### `WR STATUS` (R237): what is refused, the complement of `execWrStatus_of_ok` -/

theorem execWrStatus_of_reserved (hv : 16 ≤ v.toNat) (s : State) :
    execWrStatus v s = .refused .reservedBitsWritten := by
  simp [execWrStatus, statusWriteOk_eq, hv]

/-- Settles O14: the reserved bits decide whether the write is refused, and then bit 2 whether the flag is cleared. -/
theorem statusWriteClearsTheFramingFlag : Obligations.StatusWriteClearsTheFramingFlag := by
  intro s v
  have hok : v.toNat < 16 → exec (.wrStatus v) s = .next (acceptWrite (if v.getLsbD 2 then clearFerr s else s)) :=
    fun hv => execWrStatus_of_ok ((statusWriteOk_eq v).trans (decide_eq_true hv)) s
  refine ⟨fun hv hb => ?_, fun hv hb => ?_, fun hv => execWrStatus_of_reserved hv s⟩
  · rw [hok hv, hb]
    rfl
  · rw [hok hv, hb]
    rfl

/-! ### `WR CTRL` (R239): what is refused, and the enable; the rest is `execWrCtrl_zero_of_en` and
`execWrCtrl_of_same` -/

theorem execWrCtrl_of_reserved (hv : 2 ≤ v.toNat) (s : State) :
    execWrCtrl v s = .refused .reservedBitsWritten := by
  rw [execWrCtrl, ctrlWriteOk_eq, decide_eq_false (by omega)]
  rfl

theorem divisorsLegal_eq_true : divisorsLegal s = true ↔ 2 ≤ s.txDiv.toNat ∧ 2 ≤ s.rxDiv.toNat := by
  rw [divisorsLegal, Bool.and_eq_true, decide_eq_true_iff, decide_eq_true_iff]
  rfl

/-- A disabled unit is enabled with both divisors legal, and the write is refused with one that is not. -/
theorem execWrCtrl_one_of_disabled (he : s.en = false) :
    execWrCtrl 1#16 s =
      if divisorsLegal s then .next (acceptWrite (setEn s)) else .refused .enableWithIllegalDivisor := by
  cases hd : divisorsLegal s <;> simp [execWrCtrl, ctrlWriteOk, he, hd]

/-- Settles O15: the divisors decide about an enable, the engines at rest about a disable, and a write of the value `EN`
has is accepted as it is. -/
theorem ctrlWriteEnablesAndDisables : Obligations.CtrlWriteEnablesAndDisables := by
  refine fun s v => ⟨fun hv => execWrCtrl_of_reserved hv s, ?_, ?_, ?_, ?_, ?_, ?_⟩
  · rintro rfl he hdiv
    exact (execWrCtrl_one_of_disabled he).trans (if_neg (by rw [divisorsLegal_eq_true]; omega))
  · rintro rfl he htx hrx
    exact (execWrCtrl_one_of_disabled he).trans (if_pos (divisorsLegal_eq_true.mpr ⟨htx, hrx⟩))
  · rintro rfl he hbusy
    have hwork : ¬engineIdle s = true := fun hi => by
      obtain ⟨hf, hr⟩ := engineIdle_eq_true.mp hi
      simp [hf, hr] at hbusy
    exact (execWrCtrl_zero_of_en he).trans (if_neg hwork)
  · rintro rfl he hf hr
    exact ⟨false, (execWrCtrl_zero_of_en he).trans (if_pos (engineIdle_eq_true.mpr ⟨hf, hr⟩))⟩
  · rintro rfl he
    exact execWrCtrl_of_same (by decide) he
  · rintro rfl he
    exact execWrCtrl_of_same (by decide) he

end Sys2Proof.Machine

/-! # Reset: the step that comes whatever the host is at (`70_reset_and_hazards.md` R280)

The script's line decides about the reset before the host's hold does. What a host then reads is computed of registers that
the reset gives a value, so no draw shows in it. -/

namespace Sys2Proof.Machine

variable {s : State}

/-- A held host does not keep the reset from coming (log entry 6). -/
theorem step_of_reset {rest : List Event} (hs : s.script = .reset :: rest) :
    step s = .next (resetStep { s with script := rest }) := by
  unfold step turn
  split
  · simp only [scriptTurn, hs]
  · simp only [heldTurn, hs]

@[simp] theorem statusWord_resetStep (s : State) : statusWord (resetStep s) = 0#16 := by
  simp [statusWord, rxBusy]

@[simp] theorem ctrlWord_resetStep (s : State) : ctrlWord (resetStep s) = 0#16 := by
  simp [ctrlWord_eq_ite]

/-- Each of the four readable registers reads 0 (R280). -/
theorem exec_read_resetStep {i : Instr} (hi : i = .rdStatus ∨ i = .rdCtrl ∨ i = .rdTxdiv ∨ i = .rdRxdiv) (s : State) :
    exec i (resetStep s) = .next (returnRead (resetStep s) 0#16) := by
  rcases hi with rfl | rfl | rfl | rfl
  · change execRdStatus _ = _
    rw [execRdStatus, statusWord_resetStep]
  · change execRdCtrl _ = _
    rw [execRdCtrl, ctrlWord_resetStep]
  · rfl
  · rfl

/-- Settles O36: the step is `resetStep`, whose seven draws are the free values, and each of the four reads shows 0. -/
theorem resetStepSetsEveryRegister : Obligations.ResetStepSetsEveryRegister := fun _ _ hs =>
  ⟨_, _, _, _, _, _, _, _, rfl, step_of_reset hs, fun _ hi => exec_read_resetStep hi _⟩

end Sys2Proof.Machine
